-- ==== Sys2Proof/Word.lean ====
section
/-! DEFINITION. The bit-vector types of the block, one name per width the spec uses (00_scope.md R8, R9, R10).
Every value is an unsigned bit vector of a stated width; bit 0 is the least significant bit. -/

namespace Sys2Proof

/-- The 8-bit header and the 8-bit checksum (R8). -/
abbrev Byte := BitVec 8

/-- The 16-bit data word (R8). -/
abbrev Half := BitVec 16

/-- The frame register, a wire word, an operand and a result: 32 bits (R8, R9 `ARG_W`, `RDATA_W`). -/
abbrev Word := BitVec 32

/-- The opcode port `cmd_op`: 4 bits (R9 `OP_W`). -/
abbrev Opcode := BitVec 4

/-- A command word `cmd_op : cmd_arg`: 36 bits (R9 `CMD_W`, R61). -/
abbrev CmdWord := BitVec 36

/-- The error mask `err` of a response: 5 bits (R9 `ERR_W`, R67). -/
abbrev ErrMask := BitVec 5

end Sys2Proof
end

