-- ==== Sys2Proof/Syntax.lean ====
section
/-! DEFINITION. The commands of the block as syntax: one constructor of `Instr` per row of spec/opcode_table.json
(30_encoding.md R63), and the textual commands of the spec's assembler (30_encoding.md R71). -/

namespace Sys2Proof

/-- One command, with the operand bits its format uses (R62, R64). A format that ignores operand bits does not
carry them (R65). Thirteen commands and the three reserved opcodes of R69. -/
inductive Instr where
  | init                      -- op 0, format N
  | setTo (v : Word)          -- op 1, format F
  | setFrom (v : Word)        -- op 2, format F
  | setType (v : Word)        -- op 3, format F
  | setData (value : Half)    -- op 4, format D
  | getTo                     -- op 5, format N
  | getFrom                   -- op 6, format N
  | getType                   -- op 7, format N
  | getData                   -- op 8, format N
  | calcCsum                  -- op 9, format N
  | verify                    -- op 10, format N
  | getRaw                    -- op 11, format N
  | setRaw (raw : Word)       -- op 12, format R
  | reserved13                -- op 13, an illegal command
  | reserved14                -- op 14, an illegal command
  | reserved15                -- op 15, an illegal command
  deriving DecidableEq, Repr

/-- The operand formats of R62, and the reserved rows, which have none. -/
inductive Format where
  | n | f | d | r | reserved
  deriving DecidableEq, Repr

/-- The thirteen mnemonics of R63. A reserved opcode has none. -/
inductive Mnemonic where
  | init | setTo | setFrom | setType | setData | getTo | getFrom | getType | getData
  | calcCsum | verify | getRaw | setRaw
  deriving DecidableEq, Repr

/-- A textual command of R71: a mnemonic and at most one unsigned number. -/
structure Command where
  mnemonic : Mnemonic
  operand  : Option Nat
  deriving DecidableEq, Repr

/-- The format of each mnemonic (R63). -/
def Mnemonic.format : Mnemonic → Format
  | .init => .n
  | .setTo => .f
  | .setFrom => .f
  | .setType => .f
  | .setData => .d
  | .getTo => .n
  | .getFrom => .n
  | .getType => .n
  | .getData => .n
  | .calcCsum => .n
  | .verify => .n
  | .getRaw => .n
  | .setRaw => .r

end Sys2Proof
end

