-- ==== Sys2Proof/WellFormed.lean ====
section
/-! DEFINITION. Which terms of the syntax are well formed.
An operand of `Instr` has exactly the width its format uses (30_encoding.md R62, R64), and R70 says that no operand
value and no command word is refused: EVERY term of `Instr` is well formed, by its type, the reserved opcodes
included, so there is no check on it. What can be ill formed is a textual command (R71): its operand may be missing,
superfluous or too large. -/

namespace Sys2Proof

/-- The check of R71 on a textual command: format N takes no operand; formats F and R take one in the range 0 to
2^32-1; format D takes one in the range 0 to 0xFFFF. No mnemonic has the format `reserved`. -/
def Command.wf (c : Command) : Bool :=
  match c.mnemonic.format, c.operand with
  | .n, none => true
  | .n, some _ => false
  | .f, some v => decide (v < 2 ^ 32)
  | .f, none => false
  | .d, some v => decide (v < 2 ^ 16)
  | .d, none => false
  | .r, some v => decide (v < 2 ^ 32)
  | .r, none => false
  | .reserved, _ => false

end Sys2Proof
end

