-- ==== Sys2Proof/Decode.lean ====
section
/-! DEFINITION. The 36-bit command word (30_encoding.md R61): its fields, the operand each format takes from it (R64),
the opcode map (R63), the decoder, total on every command word (R74), and the encoder of the canonical word, in
which the operand bits a format ignores are zero (R65, R71). -/

namespace Sys2Proof

/-- Bits 35-32 of a command word (R61). -/
def opcodeOf (w : CmdWord) : Opcode := w.extractLsb' 32 4

/-- Bits 31-0 of a command word (R61). -/
def argOf (w : CmdWord) : Word := w.extractLsb' 0 32

/-- The command word `cmd_op : cmd_arg` (R61). -/
def commandWord (op : Opcode) (arg : Word) : CmdWord := op ++ arg

/-- Format F: the whole operand, not truncated before the range check (R64). -/
def operandF (arg : Word) : Word := arg

/-- Format D: bits 15-0 of the operand (R64). -/
def operandD (arg : Word) : Half := arg.extractLsb' 0 16

/-- Format R: the whole operand (R64). -/
def operandR (arg : Word) : Word := arg

/-- The command a word selects: the row of R63 whose opcode is `cmd[35:32]`. The last arm is opcode 15, the only
4-bit value the arms above it leave. -/
def decode (w : CmdWord) : Instr :=
  match (opcodeOf w).toNat with
  | 0 => .init
  | 1 => .setTo (operandF (argOf w))
  | 2 => .setFrom (operandF (argOf w))
  | 3 => .setType (operandF (argOf w))
  | 4 => .setData (operandD (argOf w))
  | 5 => .getTo
  | 6 => .getFrom
  | 7 => .getType
  | 8 => .getData
  | 9 => .calcCsum
  | 10 => .verify
  | 11 => .getRaw
  | 12 => .setRaw (operandR (argOf w))
  | 13 => .reserved13
  | 14 => .reserved14
  | _ => .reserved15

/-- The canonical command word of a command: operand zero-extended to `cmd[31:0]`, zeros in the bits the format
ignores (R71). -/
def encode : Instr → CmdWord
  | .init => commandWord 0#4 0#32
  | .setTo v => commandWord 1#4 v
  | .setFrom v => commandWord 2#4 v
  | .setType v => commandWord 3#4 v
  | .setData value => commandWord 4#4 (value.setWidth 32)
  | .getTo => commandWord 5#4 0#32
  | .getFrom => commandWord 6#4 0#32
  | .getType => commandWord 7#4 0#32
  | .getData => commandWord 8#4 0#32
  | .calcCsum => commandWord 9#4 0#32
  | .verify => commandWord 10#4 0#32
  | .getRaw => commandWord 11#4 0#32
  | .setRaw raw => commandWord 12#4 raw
  | .reserved13 => commandWord 13#4 0#32
  | .reserved14 => commandWord 14#4 0#32
  | .reserved15 => commandWord 15#4 0#32

/-- The opcode number of each command (R63). -/
def Instr.opcode : Instr → Opcode
  | .init => 0#4
  | .setTo _ => 1#4
  | .setFrom _ => 2#4
  | .setType _ => 3#4
  | .setData _ => 4#4
  | .getTo => 5#4
  | .getFrom => 6#4
  | .getType => 7#4
  | .getData => 8#4
  | .calcCsum => 9#4
  | .verify => 10#4
  | .getRaw => 11#4
  | .setRaw _ => 12#4
  | .reserved13 => 13#4
  | .reserved14 => 14#4
  | .reserved15 => 15#4

/-- One row of R63: its opcode, its match and mask over the command word, and its format. -/
structure OpcodeRow where
  op     : Opcode
  pat    : CmdWord
  mask   : CmdWord
  format : Format
  deriving DecidableEq, Repr

/-- A row matches a command word when the word under its mask is its pattern (R63). -/
def OpcodeRow.selects (r : OpcodeRow) (w : CmdWord) : Bool := (w &&& r.mask) == r.pat

/-- The sixteen rows of R63 as spec/opcode_table.json gives them; for every row the mask is `0xF00000000`. -/
def opcodeTable : List OpcodeRow :=
  [⟨0#4, 0x000000000#36, 0xF00000000#36, .n⟩,
   ⟨1#4, 0x100000000#36, 0xF00000000#36, .f⟩,
   ⟨2#4, 0x200000000#36, 0xF00000000#36, .f⟩,
   ⟨3#4, 0x300000000#36, 0xF00000000#36, .f⟩,
   ⟨4#4, 0x400000000#36, 0xF00000000#36, .d⟩,
   ⟨5#4, 0x500000000#36, 0xF00000000#36, .n⟩,
   ⟨6#4, 0x600000000#36, 0xF00000000#36, .n⟩,
   ⟨7#4, 0x700000000#36, 0xF00000000#36, .n⟩,
   ⟨8#4, 0x800000000#36, 0xF00000000#36, .n⟩,
   ⟨9#4, 0x900000000#36, 0xF00000000#36, .n⟩,
   ⟨10#4, 0xA00000000#36, 0xF00000000#36, .n⟩,
   ⟨11#4, 0xB00000000#36, 0xF00000000#36, .n⟩,
   ⟨12#4, 0xC00000000#36, 0xF00000000#36, .r⟩,
   ⟨13#4, 0xD00000000#36, 0xF00000000#36, .reserved⟩,
   ⟨14#4, 0xE00000000#36, 0xF00000000#36, .reserved⟩,
   ⟨15#4, 0xF00000000#36, 0xF00000000#36, .reserved⟩]

/-- The operand bits a format uses, as a mask over `cmd_arg` (R62); the others are ignored (R65). -/
def Format.usedBits : Format → Word
  | .n => 0x00000000#32
  | .f => 0xFFFFFFFF#32
  | .d => 0x0000FFFF#32
  | .r => 0xFFFFFFFF#32
  | .reserved => 0x00000000#32

/-- The format of each command (R63). -/
def Instr.format : Instr → Format
  | .init => .n
  | .setTo _ => .f
  | .setFrom _ => .f
  | .setType _ => .f
  | .setData _ => .d
  | .getTo => .n
  | .getFrom => .n
  | .getType => .n
  | .getData => .n
  | .calcCsum => .n
  | .verify => .n
  | .getRaw => .n
  | .setRaw _ => .r
  | .reserved13 => .reserved
  | .reserved14 => .reserved
  | .reserved15 => .reserved

/-- Why a number is no command. -/
inductive DecodeError where
  /-- The number needs more than the 36 bits of a command word (R61: every command has this one length). Safe. -/
  | tooWide
  deriving DecidableEq, Repr

/-- A number written down as a command word (R61): rejected by name when it has more than 36 bits, decoded
otherwise. -/
def decodeNumber (n : Nat) : Except DecodeError Instr :=
  if n < 2 ^ 36 then .ok (decode (BitVec.ofNat 36 n)) else .error .tooWide

/-- The instruction the decoder reads from a row of the opcode table given as a number of `nbits` bits: a command is
one 36-bit word, so the number is the word itself. -/
def decodeTableWord (nbits w : Nat) : Option Instr :=
  match decodeNumber (w % 2 ^ nbits) with
  | .ok i => some i
  | .error _ => none

end Sys2Proof
end

