-- ==== Sys2Proof/Config.lean ====
section
/-! DEFINITION. What the source fixes for every instance of the block (00_scope.md R8), and the one parameter the
spec leaves open, the reset draw `FR_RESET` (00_scope.md R9, 92_eei_decisions.md D10). -/

namespace Sys2Proof.Config

/-- `FR_RESET`: the value the frame register takes at a reset, one draw per reset event, under no law
(10_state.md R29, 70_reset_and_hazards.md R200). `frReset n` is the draw of reset event number `n`.
FREE VALUE: it has no body, so nothing can be proved of its value. Assumption 1. -/
opaque frReset : Nat → Word

/-- The preamble (bit 7) and postamble (bit 0) bits of a header (R8, R90). -/
def markers : Byte := 0x81#8

/-- Header bit where the destination node id begins (R8: bits 6-5). -/
def toShift : Nat := 5

/-- Header bit where the source node id begins (R8: bits 4-3). -/
def fromShift : Nat := 3

/-- Header bit where the message-type id begins (R8: bits 2-1). -/
def typeShift : Nat := 1

/-- The largest value of a header field (R8: range 0 to 3). -/
def fieldMax : Word := 3#32

end Sys2Proof.Config
end

