-- ==== Sys2Proof/Machine/Operands.lean ====
section
/-! DEFINITION. The values the commands compute with: bytes of the data word, the range check, insertion and
extraction of a 2-bit header field, the parts of a frame word, the wire word. All are pure functions of bit vectors
(00_scope.md R11, R12; 10_state.md R21 to R23; 20_memory.md R42). -/

namespace Sys2Proof.Machine

/-- `hi(d)`: bits 15-8 of a data word (R11, R23). -/
def hi (d : Half) : Byte := d.extractLsb' 8 8

/-- `lo(d)`: bits 7-0 of a data word (R11, R23). -/
def lo (d : Half) : Byte := d.extractLsb' 0 8

/-- The range check `v <= 3` of the field setters, made on all 32 bits of the operand (41_field_accessors.md R100). -/
def fieldInRange (v : Word) : Bool := decide (v ≤ Config.fieldMax)

/-- `zext_8(v[1:0]) << s`: what a field setter ORs into the header (30_encoding.md R64, 41_field_accessors.md R101). -/
def fieldInsert (v : Word) (s : Nat) : Byte := (v.extractLsb' 0 2).setWidth 8 <<< s

/-- `(header >> s) & 0x03`: the field a getter extracts (R107 to R109). -/
def fieldExtract (h : Byte) (s : Nat) : Byte := (h >>> s) &&& 0x03#8

/-- `f[31:24]`, the header part of a frame word (10_state.md R21). -/
def headerOf (f : Word) : Byte := f.extractLsb' 24 8

/-- `f[23:8]`, the data part of a frame word (R21). -/
def dataOf (f : Word) : Half := f.extractLsb' 8 16

/-- `f[7:0]`, the checksum part of a frame word (R21). -/
def checksumOf (f : Word) : Byte := f.extractLsb' 0 8

/-- `header : data : checksum`, the frame word with the given parts (R21). -/
def frameWord (h : Byte) (d : Half) (c : Byte) : Word := h ++ d ++ c

/-- The wire word as the source packs it: each part is extended to 32 bits before it is shifted
(20_memory.md R42, 43_raw_codec.md R150). -/
def wireWord (h : Byte) (d : Half) (c : Byte) : Word :=
  c.setWidth 32 ||| (d.setWidth 32 <<< 8) ||| (h.setWidth 32 <<< 24)

/-- Header bit 7, the preamble marker `pre` (R22). -/
def preOf (h : Byte) : Bool := h.getLsbD 7

/-- Header bits 6-5, the destination node id `to` (R22). -/
def toOf (h : Byte) : BitVec 2 := h.extractLsb' 5 2

/-- Header bits 4-3, the source node id `from` (R22). -/
def fromOf (h : Byte) : BitVec 2 := h.extractLsb' 3 2

/-- Header bits 2-1, the message-type id `type` (R22). -/
def typeOf (h : Byte) : BitVec 2 := h.extractLsb' 1 2

/-- Header bit 0, the postamble marker `post` (R22). -/
def postOf (h : Byte) : Bool := h.getLsbD 0

end Sys2Proof.Machine
end

