-- ==== Sys2Proof/Machine/State.lean ====
section
/-! DEFINITION. The state of the block, as plain data. The spec gives the machine one register, `FR` (10_state.md R20):
no program counter, flag, control register, mode, memory or hidden state exists (R26, R27, R28, R30; 20_memory.md R40).
The other three fields are the model's own: the response ports of the cycle just run, the cycles the host will drive
on the input ports, and the number of reset events so far. -/

namespace Sys2Proof.Machine

/-- The errors of 60_exceptions.md R170, in the taxonomy's order. -/
inductive ErrorKind where
  | invalidField | nullOrMissingFrame | checksumMismatch | framingError | illegalCommand
  deriving DecidableEq, Repr

/-- The response `(ok, err, rdata)` of one command on the ports `resp_ok`, `resp_err`, `resp_rdata` (R66). -/
structure Response where
  ok    : Bool
  err   : ErrMask
  rdata : Word
  deriving DecidableEq, Repr

/-- The input ports in one clock cycle (30_encoding.md R60). -/
structure PortCycle where
  rst      : Bool
  cmdValid : Bool
  cmdOp    : Opcode
  cmdArg   : Word
  deriving DecidableEq, Repr

/-- The state. -/
structure State where
  /-- The frame register `FR`, `header : data : checksum` (R20, R21): the whole architectural state. -/
  fr     : Word
  /-- What the response ports showed in the cycle just run; `none` where they carry no meaning (R60, R201). An output,
  not state of the block: no command reads it (R27). Assumption 2. -/
  resp   : Option Response
  /-- The cycles the host will drive on the input ports, the next one first. The program belongs to the host
  (R26, R60). Assumption 3. -/
  inputs : List PortCycle
  /-- How many reset events there have been: the number of the next draw of `FR_RESET` (R29). Assumption 1. -/
  resets : Nat
  deriving DecidableEq, Repr

/-- The reasons a step could stop with a fault. There is none: no command traps, hangs or stops the block
(30_encoding.md R74, 60_exceptions.md R172, R180; 93_implementation_defined.md treats nothing as a fault). Nothing raises
one; safe. -/
inductive Fault where
  deriving DecidableEq, Repr

/-- The reasons a step could be refused. No command of this block is refused (30_encoding.md R74). -/
inductive Refusal where
  /-- An arm of `exec` that has no meaning yet would answer this; no arm does. Safe. -/
  | notModelled (mnemonic : String)
  deriving DecidableEq, Repr

/-- Right after the first reset event: `FR` holds draw number 0 of the open parameter `FR_RESET`, any 32-bit value
(R29, 70_reset_and_hazards.md R200; assumption 1), the block waits for the first command, and the response ports carry
no meaning. -/
def State.reset : State :=
  { fr := Config.frReset 0, resp := none, inputs := [], resets := 1 }

end Sys2Proof.Machine
end

