-- ==== Sys2Proof/Machine/Flags.lean ====
section
/-! DEFINITION. What a response reports: the checksum (42_checksum_engine.md R130), the three checks of `VERIFY` (R132),
the predicate well-formed (10_state.md R24), the error bits (30_encoding.md R67) and the responses of a command that
succeeds or fails (R66, R68). The block stores no flag (10_state.md R27). -/

namespace Sys2Proof.Machine

/-- `csum(h, d) = h +8 hi(d) +8 lo(d)`: addition modulo 256, not AND (R130, R136; 00_scope.md R12). -/
def csum (h : Byte) (d : Half) : Byte := h + hi d + lo d

/-- Check 3 of `VERIFY` (R132). -/
def sumOk (f : Word) : Bool := checksumOf f == csum (headerOf f) (dataOf f)

/-- Checks 1 and 2 of `VERIFY`: both markers are 1 (R132). -/
def framingOk (f : Word) : Bool := preOf (headerOf f) && postOf (headerOf f)

/-- `WF(f)`: preamble 1, postamble 1, and the checksum equal to the recomputed value (R24). -/
def wellFormed (f : Word) : Bool := framingOk f && sumOk f

/-- The bit of `err` each error has (R67, 60_exceptions.md R170). -/
def errorBit : ErrorKind → Nat
  | .invalidField => 0
  | .nullOrMissingFrame => 1
  | .checksumMismatch => 2
  | .framingError => 3
  | .illegalCommand => 4

/-- The mask of one error (R67). -/
def errorMask (e : ErrorKind) : ErrMask := 1#5 <<< errorBit e

/-- The mask of an error that is raised when `failed` holds. -/
def errorIf (failed : Bool) (e : ErrorKind) : ErrMask := if failed then errorMask e else 0#5

/-- The `err` of `VERIFY`: every check that failed, with no priority (R132, 60_exceptions.md R178). -/
def verifyErr (f : Word) : ErrMask :=
  errorIf (!sumOk f) .checksumMismatch ||| errorIf (!framingOk f) .framingError

/-- The response of a command that succeeds and returns `rdata` (R66, R68). -/
def successResponse (rdata : Word) : Response := { ok := true, err := 0#5, rdata := rdata }

/-- The response of a command that raises the one error `e`; `rdata` is 0 (60_exceptions.md R170, R172). -/
def errorResponse (e : ErrorKind) : Response := { ok := false, err := errorMask e, rdata := 0#32 }

/-- The response of `VERIFY` on the frame word `f` (R132). -/
def verifyResponse (f : Word) : Response :=
  { ok := framingOk f && sumOk f, err := verifyErr f, rdata := 0#32 }

end Sys2Proof.Machine
end

