-- ==== Sys2Proof/Machine/Ops.lean ====
section
/-! DEFINITION. The named operations of the machine over its state: reading and writing the parts of `FR`
(10_state.md R21), answering and raising an error (30_encoding.md R66, 60_exceptions.md R172), the reset event
(70_reset_and_hazards.md R200), the idle cycle and the fetch of the next cycle from the input ports (30_encoding.md R60). -/

namespace Sys2Proof.Machine

/-- `FR.header` (R21). -/
def State.header (s : State) : Byte := headerOf s.fr

/-- `FR.data` (R21). -/
def State.data (s : State) : Half := dataOf s.fr

/-- `FR.checksum` (R21). -/
def State.checksum (s : State) : Byte := checksumOf s.fr

/-- `FR <- f`. -/
def State.writeFr (s : State) (f : Word) : State := { s with fr := f }

/-- `FR.header <- h`; the other two parts keep their values (R21). -/
def State.writeHeader (s : State) (h : Byte) : State := s.writeFr (frameWord h s.data s.checksum)

/-- `FR.data <- d`; the other two parts keep their values (R21). -/
def State.writeData (s : State) (d : Half) : State := s.writeFr (frameWord s.header d s.checksum)

/-- `FR.checksum <- c`; the other two parts keep their values (R21). -/
def State.writeChecksum (s : State) (c : Byte) : State := s.writeFr (frameWord s.header s.data c)

/-- `resp <- r`: drive the response ports (R66). -/
def State.respond (s : State) (r : Response) : State := { s with resp := some r }

/-- The command succeeds and returns `rdata` (R66, R68). -/
def State.succeed (s : State) (rdata : Word) : State := s.respond (successResponse rdata)

/-- `raise <Error>`: the one thing that stands where an exception entry would stand. It sets the error's bit in the
response and does nothing else: no state is saved, no mode changes, control goes nowhere (R172, R180). There is no
return from it (R181). -/
def State.raise (s : State) (e : ErrorKind) : State := s.respond (errorResponse e)

/-- The reset event: `FR` takes the value `draw`, which the environment supplies (R200); the response ports carry no
meaning in that cycle (R201); the next reset event takes the next draw. -/
def State.resetEvent (s : State) (draw : Word) : State :=
  { s with fr := draw, resp := none, resets := s.resets + 1 }

/-- An idle cycle: `FR` keeps its value and the response ports carry no meaning (R60). -/
def State.idle (s : State) : State := { s with resp := none }

/-- What one cycle asks of the block. -/
inductive Event where
  | reset
  | command (w : CmdWord)
  | idle
  deriving DecidableEq, Repr

/-- What the ports of one cycle ask for: reset wins over a command (R201); with `cmd_valid = 0` there is none (R60). -/
def cycleEvent (c : PortCycle) : Event :=
  if c.rst then .reset else if c.cmdValid then .command (commandWord c.cmdOp c.cmdArg) else .idle

/-- The next cycle's event. When the host drives nothing more, the block is idle (R60, R200: it waits). -/
def State.nextEvent (s : State) : Event :=
  match s.inputs with
  | [] => .idle
  | c :: _ => cycleEvent c

/-- The state with the next cycle taken from the input ports. -/
def State.takeCycle (s : State) : State := { s with inputs := s.inputs.drop 1 }

/-- The cycle in which the host presents the command word `w` (R60, R61). -/
def commandCycle (w : CmdWord) : PortCycle :=
  { rst := false, cmdValid := true, cmdOp := opcodeOf w, cmdArg := argOf w }

/-- The host presents the commands `is`, one a cycle, before whatever else it will drive (R26, R47). -/
def State.present (is : List Instr) (s : State) : State :=
  { s with inputs := is.map (fun i => commandCycle (encode i)) ++ s.inputs }

/-- A field setter with shift `sh`: the range check before anything is written, then the OR into the header
(41_field_accessors.md R100, R101). -/
def setField (sh : Nat) (v : Word) (s : State) : Host.Outcome State Fault Refusal :=
  if fieldInRange v then
    .next ((s.writeHeader (s.header ||| fieldInsert v sh)).succeed 0#32)
  else
    .next (s.raise .invalidField)

/-- A field getter with shift `sh`: pure extraction by mask and shift (R106). -/
def getField (sh : Nat) (s : State) : Host.Outcome State Fault Refusal :=
  .next (s.succeed ((fieldExtract s.header sh).setWidth 32))

/-- A reserved opcode: an illegal command, which changes nothing (30_encoding.md R69, 60_exceptions.md R176). -/
def illegalCommand (s : State) : Host.Outcome State Fault Refusal :=
  .next (s.raise .illegalCommand)

end Sys2Proof.Machine
end

