-- ==== Sys2Proof/Machine/ChecksumEngine.lean ====
section
/-! DEFINITION. The checksum engine (42_checksum_engine.md). -/

namespace Sys2Proof.Machine

/-- `CALC_CSUM`: store the checksum of the current header and data (R131). -/
def execCalcCsum (s : State) : Host.Outcome State Fault Refusal :=
  .next ((s.writeChecksum (csum s.header s.data)).succeed 0#32)

/-- `VERIFY`: test whether the frame is well formed; change nothing (R132, R133). -/
def execVerify (s : State) : Host.Outcome State Fault Refusal :=
  .next (s.respond (verifyResponse s.fr))

end Sys2Proof.Machine
end

