-- ==== Sys2Proof/Machine/FieldAccessors.lean ====
section
/-! DEFINITION. The field accessors (41_field_accessors.md). -/

namespace Sys2Proof.Machine

/-- `SET_TO`: OR a destination node id into header bits 6-5 (R102). -/
def execSetTo (v : Word) (s : State) : Host.Outcome State Fault Refusal := setField Config.toShift v s

/-- `SET_FROM`: OR a source node id into header bits 4-3 (R103). -/
def execSetFrom (v : Word) (s : State) : Host.Outcome State Fault Refusal := setField Config.fromShift v s

/-- `SET_TYPE`: OR a message-type id into header bits 2-1 (R104). -/
def execSetType (v : Word) (s : State) : Host.Outcome State Fault Refusal := setField Config.typeShift v s

/-- `SET_DATA`: assign the data word (R105). -/
def execSetData (value : Half) (s : State) : Host.Outcome State Fault Refusal :=
  .next ((s.writeData value).succeed 0#32)

/-- `GET_TO`: header bits 6-5 (R107). -/
def execGetTo (s : State) : Host.Outcome State Fault Refusal := getField Config.toShift s

/-- `GET_FROM`: header bits 4-3 (R108). -/
def execGetFrom (s : State) : Host.Outcome State Fault Refusal := getField Config.fromShift s

/-- `GET_TYPE`: header bits 2-1 (R109). -/
def execGetType (s : State) : Host.Outcome State Fault Refusal := getField Config.typeShift s

/-- `GET_DATA`: the data word, zero-extended (R110). -/
def execGetData (s : State) : Host.Outcome State Fault Refusal :=
  .next (s.succeed (s.data.setWidth 32))

end Sys2Proof.Machine
end

