-- ==== Sys2Proof/Machine/FrameInit.lean ====
section
/-! DEFINITION. `INIT` (40_frame_init.md). -/

namespace Sys2Proof.Machine

/-- `INIT`: header, data and checksum are set to 0, then header bits 7 and 0 are set (R90). The writes are one atomic
command, and the all-zero value between them is never observable, so they are one write of `FR` here. -/
def execInit (s : State) : Host.Outcome State Fault Refusal :=
  .next ((s.writeFr (frameWord (0x00#8 ||| Config.markers) 0x0000#16 0x00#8)).succeed 0#32)

end Sys2Proof.Machine
end

