-- ==== Sys2Proof/Machine/RawCodec.lean ====
section
/-! DEFINITION. The raw codec (43_raw_codec.md). -/

namespace Sys2Proof.Machine

/-- `GET_RAW`: the wire word of the frame as it is stored; no validation (R150, R153). -/
def execGetRaw (s : State) : Host.Outcome State Fault Refusal :=
  .next (s.succeed (wireWord s.header s.data s.checksum))

/-- `SET_RAW`: header, data and checksum are taken from bits 31-24, 23-8 and 7-0 of the wire word, in one atomic
command; no validation (R151, R153). -/
def execSetRaw (raw : Word) (s : State) : Host.Outcome State Fault Refusal :=
  .next ((s.writeFr (frameWord (headerOf raw) (dataOf raw) (checksumOf raw))).succeed 0#32)

end Sys2Proof.Machine
end

