-- ==== Sys2Proof/Machine/Reserved.lean ====
section
/-! DEFINITION. The reserved opcodes 13, 14 and 15 (30_encoding.md R69). -/

namespace Sys2Proof.Machine

/-- Opcode 13: an illegal command (R69). -/
def execReserved13 (s : State) : Host.Outcome State Fault Refusal := illegalCommand s

/-- Opcode 14: an illegal command (R69). -/
def execReserved14 (s : State) : Host.Outcome State Fault Refusal := illegalCommand s

/-- Opcode 15: an illegal command (R69). -/
def execReserved15 (s : State) : Host.Outcome State Fault Refusal := illegalCommand s

end Sys2Proof.Machine
end

