-- ==== Sys2Proof/Machine/Dispatch.lean ====
section
/-! DEFINITION. One command, executed (30_encoding.md R63): each arm calls the command's own meaning. -/

namespace Sys2Proof.Machine

def exec (i : Instr) (s : State) : Host.Outcome State Fault Refusal :=
  match i with
  | .init => Sys2Proof.Machine.execInit s
  | .setTo v => Sys2Proof.Machine.execSetTo v s
  | .setFrom v => Sys2Proof.Machine.execSetFrom v s
  | .setType v => Sys2Proof.Machine.execSetType v s
  | .setData value => Sys2Proof.Machine.execSetData value s
  | .getTo => Sys2Proof.Machine.execGetTo s
  | .getFrom => Sys2Proof.Machine.execGetFrom s
  | .getType => Sys2Proof.Machine.execGetType s
  | .getData => Sys2Proof.Machine.execGetData s
  | .calcCsum => Sys2Proof.Machine.execCalcCsum s
  | .verify => Sys2Proof.Machine.execVerify s
  | .getRaw => Sys2Proof.Machine.execGetRaw s
  | .setRaw raw => Sys2Proof.Machine.execSetRaw raw s
  | .reserved13 => Sys2Proof.Machine.execReserved13 s
  | .reserved14 => Sys2Proof.Machine.execReserved14 s
  | .reserved15 => Sys2Proof.Machine.execReserved15 s

end Sys2Proof.Machine
end

