-- ==== Sys2Proof/Machine/Step.lean ====
section
/-! DEFINITION. One clock cycle of the block (30_encoding.md R60, 70_reset_and_hazards.md R201). -/

namespace Sys2Proof.Machine

/-- One cycle: take the next cycle from the input ports; a reset gives `FR` the next draw of `FR_RESET` (R200), a
command is decoded and executed, an idle cycle holds `FR` (R60). -/
def step (s : State) : Host.Outcome State Fault Refusal :=
  match s.nextEvent with
  | .reset => .next (s.takeCycle.resetEvent (Config.frReset s.resets))
  | .command w => exec (decode w) s.takeCycle
  | .idle => .next s.takeCycle.idle

/-- `s` with the command word `w` (of `nbits` bits) presented by the host in the very next cycle, before anything else
the host will drive. Bits above the 36 of a command word have no port to stand on. Assumption 3. -/
def State.withFetchWord (s : State) (nbits w : Nat) : State :=
  { s with inputs := commandCycle (BitVec.ofNat 36 (w % 2 ^ nbits)) :: s.inputs }

end Sys2Proof.Machine
end

