-- ==== Sys2Proof/Machine/Assembler.lean ====
section
/-! DEFINITION. The assembler of 30_encoding.md R71: one line of text to one command word. Text is a list of characters.
What R71 leaves open (how the operand is set off from the mnemonic, the case of hexadecimal digits, a line that holds no
command) is fixed by assumption 6. -/

namespace Sys2Proof.Machine

/-- The opcode number of each mnemonic (R63). -/
def opcodeNumber : Mnemonic → Opcode
  | .init => 0#4
  | .setTo => 1#4
  | .setFrom => 2#4
  | .setType => 3#4
  | .setData => 4#4
  | .getTo => 5#4
  | .getFrom => 6#4
  | .getType => 7#4
  | .getData => 8#4
  | .calcCsum => 9#4
  | .verify => 10#4
  | .getRaw => 11#4
  | .setRaw => 12#4

/-- The mnemonics in the order of their opcodes (R63). -/
def mnemonics : List Mnemonic :=
  [.init, .setTo, .setFrom, .setType, .setData, .getTo, .getFrom, .getType, .getData, .calcCsum, .verify,
   .getRaw, .setRaw]

/-- The mnemonic in upper case (R63, R71). -/
def spelling : Mnemonic → List Char
  | .init => "INIT".toList
  | .setTo => "SET_TO".toList
  | .setFrom => "SET_FROM".toList
  | .setType => "SET_TYPE".toList
  | .setData => "SET_DATA".toList
  | .getTo => "GET_TO".toList
  | .getFrom => "GET_FROM".toList
  | .getType => "GET_TYPE".toList
  | .getData => "GET_DATA".toList
  | .calcCsum => "CALC_CSUM".toList
  | .verify => "VERIFY".toList
  | .getRaw => "GET_RAW".toList
  | .setRaw => "SET_RAW".toList

/-- The source's function name, an accepted second spelling of the mnemonic (R71). -/
def sourceName : Mnemonic → List Char
  | .init => "Initialize".toList
  | .setTo => "SetToNodeId".toList
  | .setFrom => "SetFromNodeId".toList
  | .setType => "SetMsgTypeId".toList
  | .setData => "SetMsgData".toList
  | .getTo => "GetToNodeId".toList
  | .getFrom => "GetFromNodeId".toList
  | .getType => "GetMsgTypeId".toList
  | .getData => "GetMsgData".toList
  | .calcCsum => "CalculateChecksum".toList
  | .verify => "VerifyMessage".toList
  | .getRaw => "GetRawData".toList
  | .setRaw => "SetRawData".toList

/-- The mnemonic a name stands for. -/
def lookupMnemonic (name : List Char) : Option Mnemonic :=
  mnemonics.find? fun k => spelling k == name || sourceName k == name

/-- A comment runs from `;` to the end of the line (R71). -/
def stripComment (line : List Char) : List Char := line.takeWhile (· != ';')

/-- What sets the operand off from the mnemonic. -/
def isBlank (c : Char) : Bool := c == ' ' || c == '\t'

/-- The words of a line; `cur` holds the word being read, last character first. -/
def wordsFrom (cur : List Char) : List Char → List (List Char)
  | [] => if cur.isEmpty then [] else [cur.reverse]
  | c :: cs =>
    if isBlank c then
      if cur.isEmpty then wordsFrom [] cs else cur.reverse :: wordsFrom [] cs
    else wordsFrom (c :: cur) cs

/-- The value of a digit, if it is one in the base. -/
def digitValue (base : Nat) (c : Char) : Option Nat :=
  let n := c.toNat
  let v :=
    if 48 ≤ n ∧ n ≤ 57 then n - 48
    else if 65 ≤ n ∧ n ≤ 70 then n - 55
    else if 97 ≤ n ∧ n ≤ 102 then n - 87
    else base
  if v < base then some v else none

/-- Read digits, most significant first, after the value `acc` of those before them. -/
def parseDigits (base acc : Nat) : List Char → Option Nat
  | [] => some acc
  | c :: cs =>
    match digitValue base c with
    | some d => parseDigits base (acc * base + d) cs
    | none => none

/-- An unsigned number in decimal, or in hexadecimal with the prefix `0x` (R71). -/
def parseNumber : List Char → Option Nat
  | [] => none
  | '0' :: 'x' :: c :: cs => parseDigits 16 0 (c :: cs)
  | cs => parseDigits 10 0 cs

/-- Why a line does not assemble. -/
inductive AsmError where
  | unknownMnemonic | badNumber | badOperand | tooManyOperands
  deriving DecidableEq, Repr

/-- What a line assembles to. -/
inductive Assembled where
  | blank
  | command (w : CmdWord)
  | error (e : AsmError)
  deriving DecidableEq, Repr

/-- `op` in `cmd[35:32]`, the operand zero-extended in `cmd[31:0]`, zeros where there is none (R71). -/
def Command.word (c : Command) : CmdWord :=
  commandWord (opcodeNumber c.mnemonic) (BitVec.ofNat 32 (c.operand.getD 0))

/-- A textual command to its word, if it passes the check of R71. -/
def assembleCommand (c : Command) : Assembled :=
  if c.wf then .command (Command.word c) else .error .badOperand

/-- The words of a line to a command word. -/
def assembleWords : List (List Char) → Assembled
  | [] => .blank
  | [m] =>
    match lookupMnemonic m with
    | none => .error .unknownMnemonic
    | some k => assembleCommand { mnemonic := k, operand := none }
  | [m, x] =>
    match lookupMnemonic m, parseNumber x with
    | none, _ => .error .unknownMnemonic
    | some _, none => .error .badNumber
    | some k, some v => assembleCommand { mnemonic := k, operand := some v }
  | _ :: _ :: _ :: _ => .error .tooManyOperands

/-- One line of text (R71). -/
def assemble (line : List Char) : Assembled := assembleWords (wordsFrom [] (stripComment line))

/-- A digit of a decimal or hexadecimal number, upper case. -/
def digitChar (n : Nat) : Char := if n < 10 then Char.ofNat (48 + n) else Char.ofNat (55 + n)

/-- The `k` low digits of `v` in the base, most significant first. -/
def digits (base : Nat) : Nat → Nat → List Char
  | 0, _ => []
  | k + 1, v => digitChar (v / base ^ k % base) :: digits base k v

/-- `v` in decimal, with `k` digits (R71). -/
def decimalText (k v : Nat) : List Char := digits 10 k v

/-- `v` in hexadecimal with the prefix `0x`, with `k` digits (R71). -/
def hexText (k v : Nat) : List Char := '0' :: 'x' :: digits 16 k v

/-- A textual command written out under one of its two names, its operand as `numeral` writes it (R71). -/
def commandText (name : Mnemonic → List Char) (numeral : Nat → List Char) (c : Command) : List Char :=
  match c.operand with
  | none => name c.mnemonic
  | some v => name c.mnemonic ++ ' ' :: numeral v

end Sys2Proof.Machine
end

