-- ==== Sys2Proof/Machine/Parts.lean ====
section
/-! DEFINITION. The three parts of `FR` and which of them each command reads and writes: the table of 10_state.md R25.
`exec` does not use it; statements say that `exec` keeps to it. -/

namespace Sys2Proof.Machine

/-- The parts of `FR` (R21). -/
inductive Part where
  | header | data | checksum
  deriving DecidableEq, Repr

/-- The bits of `FR` each part stands on (R21). -/
def Part.mask : Part → Word
  | .header => 0xFF000000#32
  | .data => 0x00FFFF00#32
  | .checksum => 0x000000FF#32

/-- Two frame words hold the same value in every part of the list. -/
def agreeOn (ps : List Part) (f g : Word) : Prop := ∀ p ∈ ps, f &&& p.mask = g &&& p.mask

/-- The column "reads" of R25. A field setter reads the header because its write is a read-modify-write. -/
def reads : Instr → List Part
  | .init => []
  | .setTo _ => [.header]
  | .setFrom _ => [.header]
  | .setType _ => [.header]
  | .setData _ => []
  | .getTo => [.header]
  | .getFrom => [.header]
  | .getType => [.header]
  | .getData => [.data]
  | .calcCsum => [.header, .data]
  | .verify => [.header, .data, .checksum]
  | .getRaw => [.header, .data, .checksum]
  | .setRaw _ => []
  | .reserved13 => []
  | .reserved14 => []
  | .reserved15 => []

/-- The column "writes" of R25. A field setter writes the header only on success, so an operand above 3 writes
nothing (41_field_accessors.md R100). -/
def writes : Instr → List Part
  | .init => [.header, .data, .checksum]
  | .setTo v => if fieldInRange v then [.header] else []
  | .setFrom v => if fieldInRange v then [.header] else []
  | .setType v => if fieldInRange v then [.header] else []
  | .setData _ => [.data]
  | .getTo => []
  | .getFrom => []
  | .getType => []
  | .getData => []
  | .calcCsum => [.checksum]
  | .verify => []
  | .getRaw => []
  | .setRaw _ => [.header, .data, .checksum]
  | .reserved13 => []
  | .reserved14 => []
  | .reserved15 => []

end Sys2Proof.Machine
end

