-- ==== Sys2Proof/Machine/Run.lean ====
section
/-! DEFINITION. A sequence of commands, executed one after the other in the order the host presents them
(20_memory.md R46, R47; 10_state.md R26). -/

namespace Sys2Proof.Machine

/-- Execute the commands in order; each sees the complete effect of the one before it (R46, R47). -/
def execAll : List Instr → State → Host.Outcome State Fault Refusal
  | [], s => .next s
  | i :: is, s =>
    match exec i s with
    | .next t => execAll is t
    | .fault r => .fault r
    | .refused r => .refused r

end Sys2Proof.Machine
end

