-- ==== Sys2Proof/Safety.lean ====
section
/-! DEFINITION. What counts as a safe run. The block enforces nothing (70_reset_and_hazards.md R202): its hazards are
duties of the host. `Known` says which parts of `FR` the host may rely on after a reset (R203). `Duty` records what the
usage-order duties R206 to R213 and R215 and the duty after an error (60_exceptions.md R184) depend on, `Duty.allows` says when presenting a command keeps them, and
`Duty.tracks` says what the record promises about the frame. Neither is state of the block: the host keeps them.
Assumptions 5 and 9. -/

namespace Sys2Proof.Safety

open Sys2Proof.Machine

/-- The parts of `FR` that no longer depend on the reset draw (R203). -/
structure Known where
  header   : Bool
  data     : Bool
  checksum : Bool
  deriving DecidableEq, Repr

/-- After reset the host may rely on nothing (10_state.md R29). -/
def Known.afterReset : Known := { header := false, data := false, checksum := false }

/-- After a command: `INIT` and `SET_RAW` define the whole frame, `SET_DATA` the data, `CALC_CSUM` the checksum when
the header and data it reads are known (R203). A field setter reads the header, so it defines nothing (R208). -/
def Known.after (k : Known) : Instr → Known
  | .init => { header := true, data := true, checksum := true }
  | .setTo _ => k
  | .setFrom _ => k
  | .setType _ => k
  | .setData _ => { k with data := true }
  | .getTo => k
  | .getFrom => k
  | .getType => k
  | .getData => k
  | .calcCsum => { k with checksum := k.header && k.data }
  | .verify => k
  | .getRaw => k
  | .setRaw _ => { header := true, data := true, checksum := true }
  | .reserved13 => k
  | .reserved14 => k
  | .reserved15 => k

/-- The known parts, as a list. -/
def Known.parts (k : Known) : List Part :=
  (if k.header then [.header] else []) ++ (if k.data then [.data] else []) ++
    (if k.checksum then [.checksum] else [])

/-- What became of a field's setter since `INIT`: not presented yet, refused with `InvalidField` and not yet repeated
with a legal value (60_exceptions.md R184), or stored. -/
inductive FieldUse where
  | unset | refused | stored
  deriving DecidableEq, Repr

/-- After a setter that failed: a value stored before stays stored (41_field_accessors.md R100). -/
def FieldUse.refuse : FieldUse → FieldUse
  | .unset => .refused
  | .refused => .refused
  | .stored => .stored

/-- What the host remembers of the commands it has presented and their answers. -/
structure Duty where
  /-- `INIT` created the frame and no `SET_RAW` has replaced it: a frame being built for sending (R204, R212). -/
  built    : Bool
  /-- The `SET_TO` of this frame (R207, R215). -/
  toUse    : FieldUse
  /-- The `SET_FROM` of this frame (R207, R215). -/
  fromUse  : FieldUse
  /-- The `SET_TYPE` of this frame (R207, R215). -/
  typeUse  : FieldUse
  /-- No write since a `CALC_CSUM` or a passing `VERIFY` (R206, R211). -/
  sumFresh : Bool
  /-- The last `VERIFY` passed and nothing has been written since (R209, R213). -/
  verified : Bool
  /-- A `VERIFY` has failed on this frame: it must be dropped (R213, 60_exceptions.md R184). That it is this frame until
  the next `INIT` or `SET_RAW`, whatever is written or verified before then, is a DESIGN CHOICE (assumption 9). -/
  failed   : Bool
  deriving DecidableEq, Repr

/-- Right after a reset, and of a word that `SET_RAW` has just loaded. -/
def Duty.afterReset : Duty :=
  { built := false, toUse := .unset, fromUse := .unset, typeUse := .unset, sumFresh := false, verified := false,
    failed := false }

/-- After a write of the header or the data, a stored checksum and an earlier `VERIFY` are stale (R211). -/
def Duty.stale (d : Duty) : Duty := { d with sumFresh := false, verified := false }

/-- After the command `i`, which answered `ok`. A failed `VERIFY` is remembered until `INIT` or `SET_RAW` replaces the
frame: no write and no later `VERIFY` lifts it (DESIGN CHOICE, assumption 9). -/
def Duty.after (d : Duty) (i : Instr) (ok : Bool) : Duty :=
  match i with
  | .init => { Duty.afterReset with built := true }
  | .setTo _ => if ok then { d.stale with toUse := .stored } else { d with toUse := d.toUse.refuse }
  | .setFrom _ => if ok then { d.stale with fromUse := .stored } else { d with fromUse := d.fromUse.refuse }
  | .setType _ => if ok then { d.stale with typeUse := .stored } else { d with typeUse := d.typeUse.refuse }
  | .setData _ => d.stale
  | .getTo => d
  | .getFrom => d
  | .getType => d
  | .getData => d
  | .calcCsum => { d with sumFresh := true, verified := false }
  | .verify => { d with sumFresh := d.sumFresh || ok, verified := ok, failed := d.failed || !ok }
  | .getRaw => d
  | .setRaw _ => Duty.afterReset
  | .reserved13 => d
  | .reserved14 => d
  | .reserved15 => d

/-- Some setter was refused and not repeated: sending the frame now would ignore the `ok = 0` (R215). -/
def Duty.anyRefused (d : Duty) : Bool := d.toUse == .refused || d.fromUse == .refused || d.typeUse == .refused

/-- The host may trust the frame's contents: it built the frame itself (R204, R208) or `VERIFY` has passed (R209), and
no `VERIFY` of it has failed (R213, 60_exceptions.md R184). -/
def Duty.trusted (d : Duty) : Bool := (d.built || d.verified) && !d.failed

/-- Presenting `i` now keeps the host's duties: a field setter after `INIT`, until it has stored a value once (R207, R208;
after `InvalidField` it may be repeated, 60_exceptions.md R184); `GET_RAW` only on a trusted frame with a fresh checksum
(R206, R211) and no setter left refused (R215); a getter only on a trusted frame; no illegal command. -/
def Duty.allows (d : Duty) : Instr → Bool
  | .init => true
  | .setTo _ => d.built && d.toUse != .stored
  | .setFrom _ => d.built && d.fromUse != .stored
  | .setType _ => d.built && d.typeUse != .stored
  | .setData _ => true
  | .getTo => d.trusted
  | .getFrom => d.trusted
  | .getType => d.trusted
  | .getData => d.trusted
  | .calcCsum => true
  | .verify => true
  | .getRaw => d.trusted && d.sumFresh && !d.anyRefused
  | .setRaw _ => true
  | .reserved13 => false
  | .reserved14 => false
  | .reserved15 => false

/-- What the record promises about the frame: a built frame has both markers, and a field in which nothing is stored
holds 0 (40_frame_init.md R91); a fresh checksum is the defined one (42_checksum_engine.md R134); a verified frame is
well formed (R132). -/
structure Duty.tracks (d : Duty) (f : Word) : Prop where
  framed   : d.built = true → framingOk f = true
  toZero   : d.built = true → d.toUse ≠ .stored → toOf (headerOf f) = 0#2
  fromZero : d.built = true → d.fromUse ≠ .stored → fromOf (headerOf f) = 0#2
  typeZero : d.built = true → d.typeUse ≠ .stored → typeOf (headerOf f) = 0#2
  fresh    : d.sumFresh = true → sumOk f = true
  verified : d.verified = true → wellFormed f = true

/-- Whether the response in a state reports success. -/
def answeredOk (s : State) : Bool :=
  match s.resp with
  | some r => r.ok
  | none => false

/-- The host's record after a sequence of commands, each answered as the block answers it. -/
def dutyAfter (d : Duty) : List Instr → State → Duty
  | [], _ => d
  | i :: is, s =>
    match exec i s with
    | .next t => dutyAfter (d.after i (answeredOk t)) is t
    | .fault _ => d
    | .refused _ => d

/-- Every command of the sequence keeps the host's duties when its turn comes. -/
def safeRun (d : Duty) : List Instr → State → Bool
  | [], _ => true
  | i :: is, s =>
    d.allows i &&
      match exec i s with
      | .next t => safeRun (d.after i (answeredOk t)) is t
      | .fault _ => false
      | .refused _ => false

/-- A response the block can give: `ok` is `err == 0`, `err` is one of the six masks of 30_encoding.md R67, and a
failing response carries no data (60_exceptions.md R170). -/
def legalResponse (r : Response) : Prop :=
  (r.ok = (r.err == 0#5)) ∧
    r.err ∈ [0x00#5, 0x01#5, 0x04#5, 0x08#5, 0x0C#5, 0x10#5] ∧
    (r.ok = false → r.rdata = 0#32)

/-- The response ports, where they carry a meaning, carry a response the block can give. -/
def responseLegal (s : State) : Prop := ∀ r, s.resp = some r → legalResponse r

end Sys2Proof.Safety
end

