-- ==== Sys2Proof/Certificates/Slice0/Obligations.lean ====
section
/-! DEFINITION. The statements for the provers. Each docstring names the rule of spec/ it formalises. A result
statement gives the whole next state as an update of the state before, so it also says that every field it does not
name is unchanged (the frame), and it is the command's completion statement. -/

open Sys2Proof Sys2Proof.Machine Sys2Proof.Safety

/-! ## Encoding -/

/-- Words written out in 30_encoding.md R71 and 95_test_vectors.md section 2, one of every row of R63. -/
def Obligations.WrittenOutWordsDecode : Prop :=
  decode 0x0DEADBEEF#36 = .init ∧
  decode 0x100000002#36 = .setTo 2#32 ∧
  decode 0x280000000#36 = .setFrom 0x80000000#32 ∧
  decode 0x3FFFFFFFF#36 = .setType 0xFFFFFFFF#32 ∧
  decode 0x41234ABCD#36 = .setData 0xABCD#16 ∧
  decode 0x500000000#36 = .getTo ∧
  decode 0x600000000#36 = .getFrom ∧
  decode 0x700000000#36 = .getType ∧
  decode 0x800000000#36 = .getData ∧
  decode 0x900000000#36 = .calcCsum ∧
  decode 0xA00000000#36 = .verify ∧
  decode 0xB00000000#36 = .getRaw ∧
  decode 0xCC900C891#36 = .setRaw 0xC900C891#32 ∧
  decode 0xD00000000#36 = .reserved13 ∧
  decode 0xEFFFFFFFF#36 = .reserved14 ∧
  decode 0xF00000002#36 = .reserved15

/-- R61, R63, R64, R71: decoding the canonical word of any command, with any operand, gives the command back. -/
def Obligations.DecodeOfEncodeIsTheCommand : Prop := ∀ i : Instr, decode (encode i) = i

/-- R65, R71: encoding what a word decodes to gives the word back with the operand bits its format ignores set to
zero; opcode bits and used operand bits are all kept. -/
def Obligations.EncodeOfDecodeClearsIgnoredBits : Prop :=
  ∀ (op : Opcode) (arg : Word),
    encode (decode (commandWord op arg)) = commandWord op (arg &&& (decode (commandWord op arg)).format.usedBits)

/-- R74, R63: each of the 2^36 command words selects exactly one row of the opcode map, decodes to that row's command,
and has a meaning in every state: a next state, never a stop. -/
def Obligations.EveryWordSelectsOneRowAndRuns : Prop :=
  ∀ w : CmdWord,
    (∃ r ∈ opcodeTable, r.selects w = true ∧ r.op = w.extractLsb' 32 4 ∧ (decode w).opcode = r.op ∧
      (decode w).format = r.format ∧ ∀ q ∈ opcodeTable, q.selects w = true → q = r) ∧
    ∀ s : State, ∃ t, exec (decode w) s = .next t

/-- R65: operand bits a format does not use affect neither `FR` nor the response; a non-zero `arg[31:16]` of
`SET_DATA` is no error; the canonical word has zeros there. -/
def Obligations.IgnoredOperandBitsHaveNoEffect : Prop :=
  (∀ (op : Opcode) (arg arg' : Word),
    arg &&& (decode (commandWord op arg)).format.usedBits = arg' &&& (decode (commandWord op arg)).format.usedBits →
      ∀ s : State, exec (decode (commandWord op arg)) s = exec (decode (commandWord op arg')) s) ∧
  (∀ (arg : Word) (s : State), ∃ t,
    exec (decode (commandWord 4#4 arg)) s = .next t ∧ t.resp = some ⟨true, 0#5, 0#32⟩) ∧
  (∀ i : Instr, argOf (encode i) &&& ~~~i.format.usedBits = 0#32)

/-! ## The step -/

/-- R60, R61: in a cycle with `rst = 0` and `cmd_valid = 1` the step executes exactly the command the port carries, on
the state with that cycle taken from the inputs. The same of the word `withFetchWord` places: that the host's cycles
stand in the state, and that `withFetchWord` is the host presenting a word, is the model's choice (DESIGN CHOICE,
assumption 3), which R60 and R61 do not speak of. -/
def Obligations.StepRunsTheDecodedCommand : Prop :=
  (∀ (s : State) (c : PortCycle) (rest : List PortCycle) (i : Instr),
    s.inputs = c :: rest → c.rst = false → c.cmdValid = true → decode (commandWord c.cmdOp c.cmdArg) = i →
      step s = exec i { s with inputs := rest }) ∧
  (∀ (s : State) (w : CmdWord), step (s.withFetchWord 36 w.toNat) = exec (decode w) s)

/-- R60: with no command presented (`cmd_valid = 0`, or the host drives nothing more) `FR` keeps its value and there is
no response. That a cycle the host does not drive is idle is the model's choice (assumption 3). -/
def Obligations.IdleCycleHoldsTheFrame : Prop :=
  (∀ (s : State) (c : PortCycle) (rest : List PortCycle),
    s.inputs = c :: rest → c.rst = false → c.cmdValid = false →
      step s = .next { s with inputs := rest, resp := none }) ∧
  (∀ s : State, s.inputs = [] → step s = .next { s with resp := none })

/-- R200, R201: with `rst = 1` the command ports are ignored, no command executes, no response is produced, and `FR`
takes the draw of this reset event. That the draw is `Config.frReset` of the number of reset events is the model's
choice (assumption 1); nothing is said of its value. -/
def Obligations.ResetWinsOverACommand : Prop :=
  ∀ (s : State) (c : PortCycle) (rest : List PortCycle), s.inputs = c :: rest → c.rst = true →
    step s = .next { fr := Config.frReset s.resets, resp := none, inputs := rest, resets := s.resets + 1 }

/-- R201, 10_state.md R25: a step changes `FR` only in a cycle with a reset or with a command that writes. -/
def Obligations.OnlyResetOrAWritingCommandChangesTheFrame : Prop :=
  ∀ s t : State, step s = .next t → t.fr ≠ s.fr →
    ∃ c rest, s.inputs = c :: rest ∧
      (c.rst = true ∨ (c.cmdValid = true ∧ writes (decode (commandWord c.cmdOp c.cmdArg)) ≠ []))

/-- R74, 60_exceptions.md R172, 70_reset_and_hazards.md R202: no state stops the block. -/
def Obligations.EveryStepAnswersNext : Prop := ∀ s : State, ∃ t, step s = .next t

/-- R46, R47, R60: presenting commands one a cycle and running the block that many cycles is executing them in order.
That the host's cycles stand in the state, and that `State.present` is the host presenting, is the model's choice
(assumption 3). -/
def Obligations.PresentedCommandsRunInOrder : Prop :=
  ∀ (is : List Instr) (s : State), Host.Core.run Sys2Proof.core is.length (State.present is s) = execAll is s

/-! ## Each command -/

/-- 40_frame_init.md R90. -/
def Obligations.InitCreatesAFreshFrame : Prop :=
  ∀ (arg : Word) (s : State),
    decode (commandWord 0#4 arg) = .init ∧
    exec .init s = .next { s with fr := 0x81000000#32, resp := some ⟨true, 0#5, 0#32⟩ }

/-- 40_frame_init.md R91: the parts and sub-fields after `INIT`; the frame is not well formed and `VERIFY` answers
`ChecksumMismatch` alone; after `CALC_CSUM` it is well formed. -/
def Obligations.FrameAfterInit : Prop :=
  ∀ s t : State, exec .init s = .next t →
    t.header = 0x81#8 ∧ preOf t.header = true ∧ toOf t.header = 0#2 ∧ fromOf t.header = 0#2 ∧
    typeOf t.header = 0#2 ∧ postOf t.header = true ∧ t.data = 0#16 ∧ t.checksum = 0#8 ∧
    wellFormed t.fr = false ∧
    exec .verify t = .next { t with resp := some ⟨false, 0x04#5, 0#32⟩ } ∧
    ∃ u, exec .calcCsum t = .next u ∧ wellFormed u.fr = true

/-- 41_field_accessors.md R102: `SET_TO`. -/
def Obligations.SetToOrsIntoBits6And5 : Prop :=
  ∀ (v : Word) (s : State),
    decode (commandWord 1#4 v) = .setTo v ∧
    (3 < v.toNat → exec (.setTo v) s = .next { s with resp := some ⟨false, 0x01#5, 0#32⟩ }) ∧
    (v.toNat ≤ 3 → ∃ h : Byte,
      h = s.header ||| ((v.extractLsb' 0 2).setWidth 8 <<< 5) ∧ h = s.header ||| BitVec.ofNat 8 (v.toNat * 0x20) ∧
      toOf h = toOf s.header ||| v.extractLsb' 0 2 ∧ preOf h = preOf s.header ∧
      exec (.setTo v) s =
        .next { s with fr := frameWord h s.data s.checksum, resp := some ⟨true, 0#5, 0#32⟩ })

/-- 41_field_accessors.md R103: `SET_FROM`. -/
def Obligations.SetFromOrsIntoBits4And3 : Prop :=
  ∀ (v : Word) (s : State),
    decode (commandWord 2#4 v) = .setFrom v ∧
    (3 < v.toNat → exec (.setFrom v) s = .next { s with resp := some ⟨false, 0x01#5, 0#32⟩ }) ∧
    (v.toNat ≤ 3 → ∃ h : Byte,
      h = s.header ||| ((v.extractLsb' 0 2).setWidth 8 <<< 3) ∧ h = s.header ||| BitVec.ofNat 8 (v.toNat * 0x08) ∧
      fromOf h = fromOf s.header ||| v.extractLsb' 0 2 ∧ toOf h = toOf s.header ∧ typeOf h = typeOf s.header ∧
      exec (.setFrom v) s =
        .next { s with fr := frameWord h s.data s.checksum, resp := some ⟨true, 0#5, 0#32⟩ })

/-- 41_field_accessors.md R104: `SET_TYPE`. -/
def Obligations.SetTypeOrsIntoBits2And1 : Prop :=
  ∀ (v : Word) (s : State),
    decode (commandWord 3#4 v) = .setType v ∧
    (3 < v.toNat → exec (.setType v) s = .next { s with resp := some ⟨false, 0x01#5, 0#32⟩ }) ∧
    (v.toNat ≤ 3 → ∃ h : Byte,
      h = s.header ||| ((v.extractLsb' 0 2).setWidth 8 <<< 1) ∧ h = s.header ||| BitVec.ofNat 8 (v.toNat * 0x02) ∧
      typeOf h = typeOf s.header ||| v.extractLsb' 0 2 ∧ postOf h = postOf s.header ∧
      exec (.setType v) s =
        .next { s with fr := frameWord h s.data s.checksum, resp := some ⟨true, 0#5, 0#32⟩ })

/-- 41_field_accessors.md R100, 60_exceptions.md R171: the range check looks at all 32 bits of the operand and at
nothing else; on failure nothing is written; no other command raises `InvalidField`. -/
def Obligations.FieldSettersCheckTheRangeFirst : Prop :=
  (∀ (set : Word → Instr), set ∈ [Instr.setTo, Instr.setFrom, Instr.setType] → ∀ (v : Word) (s : State),
    (3 < v.toNat → exec (set v) s = .next { s with resp := some ⟨false, 0x01#5, 0#32⟩ }) ∧
    (v.toNat ≤ 3 → ∃ t, exec (set v) s = .next t ∧ t.resp = some ⟨true, 0#5, 0#32⟩ ∧
      t.data = s.data ∧ t.checksum = s.checksum)) ∧
  (∀ (i : Instr) (s t : State) (r : Response), exec i s = .next t → t.resp = some r → r.err.getLsbD 0 = true →
    ∃ v : Word, 3 < v.toNat ∧ (i = .setTo v ∨ i = .setFrom v ∨ i = .setType v))

/-- 41_field_accessors.md R101: a successful setter changes only the two bits of its field and only from 0 to 1; the
field becomes `old | v`; two calls leave the OR of both values. -/
def Obligations.FieldSettersOrAccumulate : Prop :=
  ∀ (set : Word → Instr) (sh : Nat),
    (set, sh) ∈ [(Instr.setTo, 5), (Instr.setFrom, 3), (Instr.setType, 1)] →
    ∀ (v w : Word) (s t : State), v.toNat ≤ 3 → w.toNat ≤ 3 → exec (set v) s = .next t →
      t.header = s.header ||| ((v.extractLsb' 0 2).setWidth 8 <<< sh) ∧
      t.data = s.data ∧ t.checksum = s.checksum ∧
      t.header.extractLsb' sh 2 = s.header.extractLsb' sh 2 ||| v.extractLsb' 0 2 ∧
      (∀ k, t.header.getLsbD k ≠ s.header.getLsbD k →
        (k = sh ∨ k = sh + 1) ∧ s.header.getLsbD k = false ∧ t.header.getLsbD k = true) ∧
      ∃ u, exec (set w) t = .next u ∧
        u.header.extractLsb' sh 2 = s.header.extractLsb' sh 2 ||| v.extractLsb' 0 2 ||| w.extractLsb' 0 2

/-- 41_field_accessors.md R105: `SET_DATA`. -/
def Obligations.SetDataAssignsTheDataWord : Prop :=
  ∀ (arg : Word) (s : State),
    decode (commandWord 4#4 arg) = .setData (arg.extractLsb' 0 16) ∧
    ∀ d : Half, exec (.setData d) s =
      .next { s with fr := frameWord s.header d s.checksum, resp := some ⟨true, 0#5, 0#32⟩ }

/-- 41_field_accessors.md R107: `GET_TO`. -/
def Obligations.GetToReturnsBits6And5 : Prop :=
  ∀ (arg : Word) (s : State),
    decode (commandWord 5#4 arg) = .getTo ∧
    exec .getTo s = .next { s with resp := some ⟨true, 0#5, ((s.header >>> 5) &&& 0x03#8).setWidth 32⟩ } ∧
    ((s.header >>> 5) &&& 0x03#8).setWidth 32 = (s.fr.extractLsb' 29 2).setWidth 32

/-- 41_field_accessors.md R108: `GET_FROM`. -/
def Obligations.GetFromReturnsBits4And3 : Prop :=
  ∀ (arg : Word) (s : State),
    decode (commandWord 6#4 arg) = .getFrom ∧
    exec .getFrom s = .next { s with resp := some ⟨true, 0#5, ((s.header >>> 3) &&& 0x03#8).setWidth 32⟩ } ∧
    ((s.header >>> 3) &&& 0x03#8).setWidth 32 = (s.fr.extractLsb' 27 2).setWidth 32

/-- 41_field_accessors.md R109: `GET_TYPE`. -/
def Obligations.GetTypeReturnsBits2And1 : Prop :=
  ∀ (arg : Word) (s : State),
    decode (commandWord 7#4 arg) = .getType ∧
    exec .getType s = .next { s with resp := some ⟨true, 0#5, ((s.header >>> 1) &&& 0x03#8).setWidth 32⟩ } ∧
    ((s.header >>> 1) &&& 0x03#8).setWidth 32 = (s.fr.extractLsb' 25 2).setWidth 32

/-- 41_field_accessors.md R110: `GET_DATA`. -/
def Obligations.GetDataReturnsTheDataWord : Prop :=
  ∀ (arg : Word) (s : State),
    decode (commandWord 8#4 arg) = .getData ∧
    exec .getData s = .next { s with resp := some ⟨true, 0#5, s.data.setWidth 32⟩ } ∧
    s.data.setWidth 32 = (s.fr.extractLsb' 8 16).setWidth 32

/-- 41_field_accessors.md R106: a getter leaves all of `FR`, always succeeds, returns its field zero-extended, and
answers the same after a `VERIFY`, whatever that answered. -/
def Obligations.GettersValidateNothing : Prop :=
  ∀ (get : Instr) (field : Word → Word),
    (get, field) ∈ [(Instr.getTo, fun f => (f.extractLsb' 29 2).setWidth 32),
                    (Instr.getFrom, fun f => (f.extractLsb' 27 2).setWidth 32),
                    (Instr.getType, fun f => (f.extractLsb' 25 2).setWidth 32),
                    (Instr.getData, fun f => (f.extractLsb' 8 16).setWidth 32)] →
    ∀ s : State,
      exec get s = .next { s with resp := some ⟨true, 0#5, field s.fr⟩ } ∧
      ∃ t, exec .verify s = .next t ∧ exec get t = exec get s

/-- 42_checksum_engine.md R131: `CALC_CSUM`. -/
def Obligations.CalcCsumStoresTheChecksum : Prop :=
  ∀ (arg : Word) (s : State),
    decode (commandWord 9#4 arg) = .calcCsum ∧
    exec .calcCsum s =
      .next { s with fr := frameWord s.header s.data (s.header + s.data.extractLsb' 8 8 + s.data.extractLsb' 0 8),
                     resp := some ⟨true, 0#5, 0#32⟩ }

/-- 42_checksum_engine.md R132, R133: `VERIFY` answers the logical AND of its three checks, reports every check that
failed, changes no state, and answers the same when repeated. -/
def Obligations.VerifyReportsTheThreeChecks : Prop :=
  ∀ (arg : Word) (s : State),
    decode (commandWord 10#4 arg) = .verify ∧
    ∃ err : ErrMask,
      (err.getLsbD 2 = true ↔ s.checksum ≠ s.header + s.data.extractLsb' 8 8 + s.data.extractLsb' 0 8) ∧
      (err.getLsbD 3 = true ↔ ¬(s.header.getLsbD 7 = true ∧ s.header.getLsbD 0 = true)) ∧
      err &&& 0x13#5 = 0#5 ∧
      exec .verify s = .next { s with resp := some ⟨err == 0#5, err, 0#32⟩ } ∧
      (err == 0#5) = wellFormed s.fr ∧
      ∀ t, exec .verify s = .next t → exec .verify t = .next t

/-- 43_raw_codec.md R150: `GET_RAW`. -/
def Obligations.GetRawPacksTheFrame : Prop :=
  ∀ (arg : Word) (s : State),
    decode (commandWord 11#4 arg) = .getRaw ∧
    exec .getRaw s = .next { s with resp := some ⟨true, 0#5,
      s.checksum.setWidth 32 ||| (s.data.setWidth 32 <<< 8) ||| (s.header.setWidth 32 <<< 24)⟩ } ∧
    s.checksum.setWidth 32 ||| (s.data.setWidth 32 <<< 8) ||| (s.header.setWidth 32 <<< 24) = s.fr

/-- 43_raw_codec.md R151: `SET_RAW`. -/
def Obligations.SetRawUnpacksTheWord : Prop :=
  ∀ (raw : Word) (s : State),
    decode (commandWord 12#4 raw) = .setRaw raw ∧
    exec (.setRaw raw) s = .next { s with fr := raw, resp := some ⟨true, 0#5, 0#32⟩ } ∧
    ∀ t, exec (.setRaw raw) s = .next t →
      t.header = raw.extractLsb' 24 8 ∧ t.data = raw.extractLsb' 8 16 ∧ t.checksum = raw.extractLsb' 0 8

/-- 30_encoding.md R69, 60_exceptions.md R176: the reserved opcodes, with any operand. -/
def Obligations.ReservedOpcodesAreIllegalCommands : Prop :=
  ∀ (op : Opcode) (i : Instr),
    (op, i) ∈ [(13#4, Instr.reserved13), (14#4, Instr.reserved14), (15#4, Instr.reserved15)] →
    ∀ (arg : Word) (s : State),
      decode (commandWord op arg) = i ∧
      exec i s = .next { s with resp := some ⟨false, 0x10#5, 0#32⟩ } ∧
      ∀ (j : Instr) (t : State), exec i s = .next t → exec j t = exec j s

/-! ## Laws of the raw codec, the setters and the checksum -/

/-- 43_raw_codec.md R152: the round trip, in both directions, from any state. -/
def Obligations.RawCodecRoundTrips : Prop :=
  (∀ (r : Word) (s : State), ∃ t, execAll [.setRaw r, .getRaw] s = .next t ∧ t.resp = some ⟨true, 0#5, r⟩) ∧
  (∀ (s t : State) (a : Response), exec .getRaw s = .next t → t.resp = some a →
    ∃ u, exec (.setRaw a.rdata) t = .next u ∧ u.fr = s.fr)

/-- 41_field_accessors.md R111: the three setters after `INIT`, one call each, in any order, leave the stated header,
and the three getters return the three values; and each setter alone. -/
def Obligations.SetThenGetOnAFreshFrame : Prop :=
  (∀ (a b c : Word), a.toNat ≤ 3 → b.toNat ≤ 3 → c.toNat ≤ 3 →
    ∀ (p : List Instr), p.Perm [.setTo a, .setFrom b, .setType c] → ∀ s : State, ∃ t,
      execAll (.init :: p) s = .next t ∧
      t.header = 0x81#8 ||| (a.setWidth 8 <<< 5) ||| (b.setWidth 8 <<< 3) ||| (c.setWidth 8 <<< 1) ∧
      exec .getTo t = .next { t with resp := some ⟨true, 0#5, a⟩ } ∧
      exec .getFrom t = .next { t with resp := some ⟨true, 0#5, b⟩ } ∧
      exec .getType t = .next { t with resp := some ⟨true, 0#5, c⟩ }) ∧
  (∀ (v : Word), v.toNat ≤ 3 → ∀ (set : Word → Instr) (get : Instr),
    (set, get) ∈ [(Instr.setTo, Instr.getTo), (Instr.setFrom, Instr.getFrom), (Instr.setType, Instr.getType)] →
    ∀ s : State, ∃ t, execAll [.init, set v, get] s = .next t ∧ t.resp = some ⟨true, 0#5, v⟩)

/-- 41_field_accessors.md R112: a setter then its getter returns `t | v`; after a failed setter the getter returns
`t`; only `INIT` and `SET_RAW` return a field to 0. -/
def Obligations.SetThenGetInGeneral : Prop :=
  (∀ (set : Word → Instr) (get : Instr) (sh : Nat),
    (set, get, sh) ∈ [(Instr.setTo, Instr.getTo, 5), (Instr.setFrom, Instr.getFrom, 3),
      (Instr.setType, Instr.getType, 1)] →
    (∀ (v : Word) (s : State),
      (v.toNat ≤ 3 → ∃ t, execAll [set v, get] s = .next t ∧
        t.resp = some ⟨true, 0#5, (s.header.extractLsb' sh 2).setWidth 32 ||| v⟩) ∧
      (3 < v.toNat → ∃ t, execAll [set v, get] s = .next t ∧
        t.resp = some ⟨true, 0#5, (s.header.extractLsb' sh 2).setWidth 32⟩)) ∧
    (∀ (i : Instr) (s t : State), exec i s = .next t → s.header.extractLsb' sh 2 ≠ 0#2 →
      t.header.extractLsb' sh 2 = 0#2 → i = .init ∨ ∃ r, i = .setRaw r)) ∧
  (∀ s : State, ∃ t, execAll [.init, .setTo 1#32, .setTo 2#32, .getTo] s = .next t ∧
    t.resp = some ⟨true, 0#5, 3#32⟩)

/-- 42_checksum_engine.md R130, R136: the checksum is the sum of three bytes modulo 256, in any order (00_scope.md R12),
and not their AND. -/
def Obligations.ChecksumIsAdditionModulo256 : Prop :=
  (∀ (h : Byte) (d : Half),
    csum h d = h + d.extractLsb' 8 8 + d.extractLsb' 0 8 ∧
    (csum h d).toNat = (h.toNat + (d.extractLsb' 8 8).toNat + (d.extractLsb' 0 8).toNat) % 256 ∧
    csum h d = d.extractLsb' 0 8 + (h + d.extractLsb' 8 8) ∧
    csum h d = d.extractLsb' 8 8 + d.extractLsb' 0 8 + h) ∧
  csum 0xC9#8 0x00C8#16 = 0x91#8 ∧
  0xC9#8 &&& (0x00C8#16).extractLsb' 8 8 &&& (0x00C8#16).extractLsb' 0 8 = 0x00#8

/-- 42_checksum_engine.md R134: after `CALC_CSUM`, and until the next command that writes a part of `FR`, `VERIFY`
succeeds exactly when both markers are 1; `CALC_CSUM` twice is once; a later setter that changes a bit, or a `SET_DATA`
that changes the byte sum, makes the stored checksum wrong. -/
def Obligations.ChecksumStaysFreshUntilTheNextWrite : Prop :=
  (∀ (is : List Instr), (∀ i ∈ is, writes i = []) → ∀ s : State, ∃ t r,
    execAll (.calcCsum :: is ++ [.verify]) s = .next t ∧ t.resp = some r ∧
    r.ok = (s.header.getLsbD 7 && s.header.getLsbD 0)) ∧
  (∀ s t : State, exec .calcCsum s = .next t → exec .calcCsum t = .next t) ∧
  (∀ (s t u : State) (i : Instr) (v : Word), i ∈ [Instr.setTo v, Instr.setFrom v, Instr.setType v] →
    exec .calcCsum s = .next t → exec i t = .next u → u.fr ≠ t.fr → sumOk u.fr = false) ∧
  (∀ (s t u : State) (d : Half), exec .calcCsum s = .next t → exec (.setData d) t = .next u →
    (d.extractLsb' 8 8 + d.extractLsb' 0 8 ≠ s.data.extractLsb' 8 8 + s.data.extractLsb' 0 8 ↔ sumOk u.fr = false))

/-- 70_reset_and_hazards.md R204: the sender's commands, each of the three field setters at most once and in any order
with `SET_DATA` between `INIT` and `CALC_CSUM`, answer the stated wire word, and the frame is well formed. A setter, or
`SET_DATA`, that is left out leaves the 0 of `INIT` (40_frame_init.md R90). -/
def Obligations.SenderCommandsInAnyOrderSendTheFrame : Prop :=
  ∀ (a b c : Option Word) (d : Option Half), (∀ v ∈ a.toList ++ b.toList ++ c.toList, v.toNat ≤ 3) →
    ∀ (p : List Instr),
      p.Perm (a.toList.map .setTo ++ b.toList.map .setFrom ++ c.toList.map .setType ++ d.toList.map .setData) →
      ∀ s : State, ∃ (t : State) (h : Byte),
        h = 0x81#8 ||| ((a.getD 0#32).setWidth 8 <<< 5) ||| ((b.getD 0#32).setWidth 8 <<< 3) |||
          ((c.getD 0#32).setWidth 8 <<< 1) ∧
        execAll (.init :: p ++ [.calcCsum, .getRaw]) s = .next t ∧
        t.resp = some ⟨true, 0#5, h ++ d.getD 0#16 ++ csum h (d.getD 0#16)⟩ ∧
        wellFormed t.fr = true

/-- 70_reset_and_hazards.md R205: the receiver's commands: `VERIFY` answers whether the received word is well formed,
and each getter then returns the word's own field. -/
def Obligations.ReceiverCommandsReturnTheReceivedFields : Prop :=
  ∀ (w : Word) (s : State), ∃ (t : State) (r : Response),
    execAll [.setRaw w, .verify] s = .next t ∧ t.fr = w ∧ t.resp = some r ∧ r.ok = wellFormed w ∧
    exec .getTo t = .next { t with resp := some ⟨true, 0#5, (w.extractLsb' 29 2).setWidth 32⟩ } ∧
    exec .getFrom t = .next { t with resp := some ⟨true, 0#5, (w.extractLsb' 27 2).setWidth 32⟩ } ∧
    exec .getType t = .next { t with resp := some ⟨true, 0#5, (w.extractLsb' 25 2).setWidth 32⟩ } ∧
    exec .getData t = .next { t with resp := some ⟨true, 0#5, (w.extractLsb' 8 16).setWidth 32⟩ }

/-- 42_checksum_engine.md R135: of the 2^32 words, 2^22 pass. -/
def Obligations.ExactlyTwoToThe22WordsPass : Prop := Nat.card { f : Word // wellFormed f = true } = 2 ^ 22

/-- 42_checksum_engine.md R135: any change of exactly one bit of a well-formed word is detected. -/
def Obligations.EverySingleBitChangeIsDetected : Prop :=
  ∀ (f : Word) (k : Nat), k < 32 → wellFormed f = true → wellFormed (f ^^^ (1#32 <<< k)) = false

/-- 42_checksum_engine.md R135: when a word passes, and the changes that are never detected. -/
def Obligations.ChangesThatAreNeverDetected : Prop :=
  (∀ f : Word, wellFormed f = true ↔
    f.getLsbD 31 = true ∧ f.getLsbD 24 = true ∧
      f.extractLsb' 0 8 = f.extractLsb' 24 8 + f.extractLsb' 16 8 + f.extractLsb' 8 8) ∧
  (∀ h a b c k : Byte,
    wellFormed (h ++ b ++ a ++ c) = wellFormed (h ++ a ++ b ++ c) ∧
    wellFormed (h ++ (a + k) ++ (b - k) ++ c) = wellFormed (h ++ a ++ b ++ c) ∧
    wellFormed (h ++ (a + k) ++ b ++ (c + k)) = wellFormed (h ++ a ++ b ++ c) ∧
    wellFormed (h ++ a ++ (b + k) ++ (c + k)) = wellFormed (h ++ a ++ b ++ c) ∧
    ((h + k).getLsbD 7 = h.getLsbD 7 → (h + k).getLsbD 0 = h.getLsbD 0 →
      wellFormed ((h + k) ++ (a - k) ++ b ++ c) = wellFormed (h ++ a ++ b ++ c) ∧
      wellFormed ((h + k) ++ a ++ (b - k) ++ c) = wellFormed (h ++ a ++ b ++ c) ∧
      wellFormed ((h + k) ++ a ++ b ++ (c + k)) = wellFormed (h ++ a ++ b ++ c)))

/-! ## Responses and errors -/

/-- 60_exceptions.md R177: the `(ok, err)` pairs each command can report. -/
def Sys2Proof.Claims.possibleAnswers : Instr → List (Bool × ErrMask)
  | .init => [(true, 0x00#5)]
  | .setTo _ => [(true, 0x00#5), (false, 0x01#5)]
  | .setFrom _ => [(true, 0x00#5), (false, 0x01#5)]
  | .setType _ => [(true, 0x00#5), (false, 0x01#5)]
  | .setData _ => [(true, 0x00#5)]
  | .getTo => [(true, 0x00#5)]
  | .getFrom => [(true, 0x00#5)]
  | .getType => [(true, 0x00#5)]
  | .getData => [(true, 0x00#5)]
  | .calcCsum => [(true, 0x00#5)]
  | .verify => [(true, 0x00#5), (false, 0x04#5), (false, 0x08#5), (false, 0x0C#5)]
  | .getRaw => [(true, 0x00#5)]
  | .setRaw _ => [(true, 0x00#5)]
  | .reserved13 => [(false, 0x10#5)]
  | .reserved14 => [(false, 0x10#5)]
  | .reserved15 => [(false, 0x10#5)]

/-- 60_exceptions.md R177: every command answers one of its listed pairs and no other; every pair listed for `VERIFY`
and for a field setter occurs. -/
def Obligations.PossibleAnswersOfEachCommand : Prop :=
  (∀ (i : Instr) (s : State), ∃ t r, exec i s = .next t ∧ t.resp = some r ∧
    (r.ok, r.err) ∈ Sys2Proof.Claims.possibleAnswers i) ∧
  (∀ a ∈ Sys2Proof.Claims.possibleAnswers .verify, ∃ s t r, exec .verify s = .next t ∧ t.resp = some r ∧
    (r.ok, r.err) = a) ∧
  (∀ (set : Word → Instr), set ∈ [Instr.setTo, Instr.setFrom, Instr.setType] →
    ∀ a ∈ Sys2Proof.Claims.possibleAnswers (set 0#32), ∀ s : State, ∃ v t r, exec (set v) s = .next t ∧
      t.resp = some r ∧ (r.ok, r.err) = a)

/-- 30_encoding.md R66: every executed command produces one response, `ok` is `err == 0`; a command with no failure
path always answers success; `ok` of `VERIFY` is its boolean; `ok` of a field setter is success or `InvalidField`. -/
def Obligations.OkSaysThatNoErrorWasRaised : Prop :=
  ∀ (i : Instr) (s : State), ∃ t r, exec i s = .next t ∧ t.resp = some r ∧ r.ok = (r.err == 0#5) ∧
    match i with
    | .setTo v => r.ok = decide (v.toNat ≤ 3) ∧ (r.ok = false → r.err = 0x01#5)
    | .setFrom v => r.ok = decide (v.toNat ≤ 3) ∧ (r.ok = false → r.err = 0x01#5)
    | .setType v => r.ok = decide (v.toNat ≤ 3) ∧ (r.ok = false → r.err = 0x01#5)
    | .verify => r.ok = wellFormed s.fr
    | .reserved13 => r.ok = false
    | .reserved14 => r.ok = false
    | .reserved15 => r.ok = false
    | .init => r.ok = true ∧ r.err = 0#5
    | .setData _ => r.ok = true ∧ r.err = 0#5
    | .getTo => r.ok = true ∧ r.err = 0#5
    | .getFrom => r.ok = true ∧ r.err = 0#5
    | .getType => r.ok = true ∧ r.err = 0#5
    | .getData => r.ok = true ∧ r.err = 0#5
    | .calcCsum => r.ok = true ∧ r.err = 0#5
    | .getRaw => r.ok = true ∧ r.err = 0#5
    | .setRaw _ => r.ok = true ∧ r.err = 0#5

/-- 30_encoding.md R67, 60_exceptions.md R173: which bit of `err` each command raises and when; `err[1]` is 0 in every
response; the six values of `err`; two bits at once only from `VERIFY`, as `0x0C`. -/
def Obligations.ErrorBitsOfEveryResponse : Prop :=
  ∀ (i : Instr) (s t : State) (r : Response), exec i s = .next t → t.resp = some r →
    (r.err.getLsbD 0 = true ↔ ∃ v : Word, 3 < v.toNat ∧ (i = .setTo v ∨ i = .setFrom v ∨ i = .setType v)) ∧
    r.err.getLsbD 1 = false ∧
    (r.err.getLsbD 2 = true ↔ i = .verify ∧ s.checksum ≠ csum s.header s.data) ∧
    (r.err.getLsbD 3 = true ↔ i = .verify ∧ ¬(preOf s.header = true ∧ postOf s.header = true)) ∧
    (r.err.getLsbD 4 = true ↔ i = .reserved13 ∨ i = .reserved14 ∨ i = .reserved15) ∧
    r.err ∈ [0x00#5, 0x01#5, 0x04#5, 0x08#5, 0x0C#5, 0x10#5] ∧
    (∀ j k, j ≠ k → r.err.getLsbD j = true → r.err.getLsbD k = true → i = .verify ∧ r.err = 0x0C#5)

/-- 30_encoding.md R68: `rdata` of each command, on success and on failure alike. -/
def Obligations.RdataOfEachCommand : Prop :=
  ∀ (i : Instr) (s : State), ∃ t r, exec i s = .next t ∧ t.resp = some r ∧
    match i with
    | .getTo => r.rdata.extractLsb' 0 2 = toOf s.header ∧ r.rdata.extractLsb' 2 30 = 0#30
    | .getFrom => r.rdata.extractLsb' 0 2 = fromOf s.header ∧ r.rdata.extractLsb' 2 30 = 0#30
    | .getType => r.rdata.extractLsb' 0 2 = typeOf s.header ∧ r.rdata.extractLsb' 2 30 = 0#30
    | .getData => r.rdata.extractLsb' 0 16 = s.data ∧ r.rdata.extractLsb' 16 16 = 0#16
    | .getRaw => r.rdata = s.header ++ s.data ++ s.checksum
    | .init => r.rdata = 0#32
    | .setTo _ => r.rdata = 0#32
    | .setFrom _ => r.rdata = 0#32
    | .setType _ => r.rdata = 0#32
    | .setData _ => r.rdata = 0#32
    | .calcCsum => r.rdata = 0#32
    | .verify => r.rdata = 0#32
    | .setRaw _ => r.rdata = 0#32
    | .reserved13 => r.rdata = 0#32
    | .reserved14 => r.rdata = 0#32
    | .reserved15 => r.rdata = 0#32

/-- 60_exceptions.md R172: a failing command is an ordinary step whose next state is its previous one with the
response; the command after it executes as if it had not been. -/
def Obligations.FailingCommandsChangeNothing : Prop :=
  ∀ (i : Instr) (s t : State) (r : Response), exec i s = .next t → t.resp = some r → r.ok = false →
    r.err ≠ 0#5 ∧ t = { s with resp := some r } ∧ ∀ j : Instr, exec j t = exec j s

/-- 60_exceptions.md R174, R175, R178: when `VERIFY` raises `ChecksumMismatch` and `FramingError`, both at once as
`0x0C`, with `FR` unchanged; no other command raises either. -/
def Obligations.OnlyVerifyReportsChecksumAndFramingErrors : Prop :=
  (∀ s : State, ∃ r : Response, exec .verify s = .next { s with resp := some r } ∧
    (s.checksum ≠ csum s.header s.data → r.err.getLsbD 2 = true ∧ r.ok = false) ∧
    (s.checksum = csum s.header s.data → r.err.getLsbD 2 = false) ∧
    (preOf s.header = false ∨ postOf s.header = false → r.err.getLsbD 3 = true ∧ r.ok = false) ∧
    (preOf s.header = true → postOf s.header = true → r.err.getLsbD 3 = false) ∧
    (s.checksum ≠ csum s.header s.data → preOf s.header = false ∨ postOf s.header = false → r.err = 0x0C#5)) ∧
  (∀ (i : Instr) (s t : State) (r : Response), i ≠ .verify → exec i s = .next t → t.resp = some r →
    r.err.getLsbD 2 = false ∧ r.err.getLsbD 3 = false)

/-! ## What commands read and write -/

/-- 10_state.md R25, 20_memory.md R45, the frame of every command: a part of `FR` that R25 does not list as written is
unchanged, and so are the host's inputs and the count of resets. -/
def Obligations.CommandsChangeOnlyThePartsTheyWrite : Prop :=
  ∀ (i : Instr) (s t : State), exec i s = .next t →
    (∀ p : Part, p ∉ writes i → t.fr &&& p.mask = s.fr &&& p.mask) ∧ t.inputs = s.inputs ∧ t.resets = s.resets

/-- 10_state.md R25: the response of a command, and what it writes, depend on `FR` only through the parts R25 lists as
read. -/
def Obligations.CommandsDependOnlyOnThePartsTheyRead : Prop :=
  ∀ (i : Instr) (s s' t t' : State), agreeOn (reads i) s.fr s'.fr → exec i s = .next t → exec i s' = .next t' →
    t.resp = t'.resp ∧ agreeOn (writes i) t.fr t'.fr

/-- 10_state.md R27: no command and no step depends on an earlier response; a failed `VERIFY` blocks nothing. -/
def Obligations.NoCommandReadsAnEarlierResponse : Prop :=
  ∀ (s : State) (r : Option Response),
    (∀ i : Instr, exec i { s with resp := r } = exec i s) ∧ step { s with resp := r } = step s

/-- 10_state.md R31: only the six reading commands observe `FR`; `GET_RAW` returns all of it; a cycle without a command
shows nothing. -/
def Obligations.FrameIsObservableOnlyThroughTheReadingCommands : Prop :=
  (∀ (i : Instr) (s t t' : State) (f : Word),
    i ∉ [Instr.getTo, Instr.getFrom, Instr.getType, Instr.getData, Instr.verify, Instr.getRaw] →
    exec i s = .next t → exec i { s with fr := f } = .next t' → t.resp = t'.resp) ∧
  (∀ s : State, ∃ t, exec .getRaw s = .next t ∧ t.resp = some ⟨true, 0#5, s.fr⟩) ∧
  (∀ s t : State, step s = .next t → (∀ w, s.nextEvent ≠ .command w) → t.resp = none)

/-- The frame word each writing command leaves, from the word `f` before it (40_frame_init.md R90, 41_field_accessors.md
R102 to R105, 42_checksum_engine.md R131, 43_raw_codec.md R151). Only the parts the command writes are looked at. -/
def Sys2Proof.Claims.wordWritten (f : Word) : Instr → Word
  | .init => 0x81000000#32
  | .setTo v => f ||| (v <<< 29)
  | .setFrom v => f ||| (v <<< 27)
  | .setType v => f ||| (v <<< 25)
  | .setData d => d.setWidth 32 <<< 8
  | .getTo => f
  | .getFrom => f
  | .getType => f
  | .getData => f
  | .calcCsum => (f.extractLsb' 24 8 + f.extractLsb' 16 8 + f.extractLsb' 8 8).setWidth 32
  | .verify => f
  | .getRaw => f
  | .setRaw raw => raw
  | .reserved13 => f
  | .reserved14 => f
  | .reserved15 => f

/-- `x` is the value the part `p` was given by the most recent command of `is` that writes it, or, if no command of
`is` writes it, the value it had before them (20_memory.md R47 (a)). -/
def Sys2Proof.Claims.mostRecentWrite (is : List Instr) (s : State) (p : Part) (x : Word) : Prop :=
  (∃ earlier k later before, is = earlier ++ k :: later ∧ p ∈ writes k ∧ (∀ i ∈ later, p ∉ writes i) ∧
    execAll earlier s = .next before ∧ x = Sys2Proof.Claims.wordWritten before.fr k &&& p.mask) ∨
  ((∀ i ∈ is, p ∉ writes i) ∧ x = s.fr &&& p.mask)

/-- 20_memory.md R47 (a): after any commands, every part of `FR` holds what the most recent command that writes it
wrote, or what it held before them if there is none; a command `j` then answers what it answers on a frame whose parts,
as far as `j` reads them, hold those values; and where no command writes a part `j` reads, `j` answers what it answered
before them. -/
def Obligations.ReadsReturnTheMostRecentWrite : Prop :=
  (∀ (is : List Instr) (s : State), ∃ t, execAll is s = .next t ∧
    ∀ p : Part, Sys2Proof.Claims.mostRecentWrite is s p (t.fr &&& p.mask)) ∧
  (∀ (j : Instr) (is : List Instr) (s : State) (f : Word),
    (∀ p ∈ reads j, Sys2Proof.Claims.mostRecentWrite is s p (f &&& p.mask)) → ∃ t u u',
      execAll is s = .next t ∧ exec j t = .next u ∧ exec j { s with fr := f } = .next u' ∧ u.resp = u'.resp) ∧
  (∀ (j : Instr) (is : List Instr), (∀ i ∈ is, ∀ p ∈ reads j, p ∉ writes i) → ∀ s : State, ∃ t u u',
    execAll is s = .next t ∧ exec j t = .next u ∧ exec j s = .next u' ∧ u.resp = u'.resp ∧
    ∀ p ∈ reads j, t.fr &&& p.mask = s.fr &&& p.mask)

/-- 20_memory.md R45: a reading command leaves `FR` and answers the same however often it is repeated; a writing
command executed twice in a row leaves the same `FR` as once. -/
def Obligations.RepeatingACommandChangesNothingMore : Prop :=
  (∀ i ∈ [Instr.getTo, Instr.getFrom, Instr.getType, Instr.getData, Instr.verify, Instr.getRaw],
    ∀ s : State, ∃ t, exec i s = .next t ∧ t.fr = s.fr ∧ exec i t = .next t) ∧
  (∀ (i : Instr) (s : State), ∃ t, exec i s = .next t ∧ exec i t = .next t)

/-- 10_state.md R21, R22, 20_memory.md R42, R43: the parts of `FR` and the fields of the header stand on the bits the
tables give; the wire word is their concatenation; writing one part leaves the other two. -/
def Obligations.PartsOfTheFrameWord : Prop :=
  (∀ s : State,
    s.header = s.fr.extractLsb' 24 8 ∧ s.data = s.fr.extractLsb' 8 16 ∧ s.checksum = s.fr.extractLsb' 0 8 ∧
    s.fr = s.header ++ s.data ++ s.checksum ∧
    preOf s.header = s.fr.getLsbD 31 ∧ toOf s.header = s.fr.extractLsb' 29 2 ∧
    fromOf s.header = s.fr.extractLsb' 27 2 ∧ typeOf s.header = s.fr.extractLsb' 25 2 ∧
    postOf s.header = s.fr.getLsbD 24 ∧
    s.header = BitVec.ofBool (preOf s.header) ++ toOf s.header ++ fromOf s.header ++ typeOf s.header ++
      BitVec.ofBool (postOf s.header)) ∧
  (∀ (h : Byte) (d : Half) (c : Byte),
    wireWord h d c = c.setWidth 32 ||| (d.setWidth 32 <<< 8) ||| (h.setWidth 32 <<< 24) ∧
    wireWord h d c = h ++ d ++ c ∧ (wireWord h d c).extractLsb' 24 8 = h ∧
    (wireWord h d c).extractLsb' 16 8 = d.extractLsb' 8 8 ∧ (wireWord h d c).extractLsb' 8 8 = d.extractLsb' 0 8 ∧
    (wireWord h d c).extractLsb' 0 8 = c) ∧
  (∀ (s : State) (h : Byte) (d : Half) (c : Byte),
    (s.writeHeader h).fr = h ++ s.data ++ s.checksum ∧ (s.writeData d).fr = s.header ++ d ++ s.checksum ∧
    (s.writeChecksum c).fr = s.header ++ s.data ++ c)

/-! ## Reset, the host's duties, invariants -/

/-- 70_reset_and_hazards.md R203, 10_state.md R29: two runs of the same commands that start with different frames (two
different reset draws) agree, at the end, on every part the record `Known` counts as written. -/
def Obligations.TheResetDrawDoesNotShowInKnownParts : Prop :=
  ∀ (is : List Instr) (k : Known) (s s' : State), agreeOn k.parts s.fr s'.fr → ∃ t t',
    execAll is s = .next t ∧ execAll is s' = .next t' ∧ agreeOn (is.foldl Known.after k).parts t.fr t'.fr

/-- 70_reset_and_hazards.md R206 to R213: what the host's record `Duty` promises about the frame stays true over every
sequence of commands. The record is the model's reading of the duties (DEDUCED, assumption 5; how long an error is
remembered: DESIGN CHOICE, assumption 9). -/
def Obligations.TheHostsRecordTracksTheFrame : Prop :=
  ∀ (is : List Instr) (d : Duty) (s : State), d.tracks s.fr → ∃ t,
    execAll is s = .next t ∧ (dutyAfter d is s).tracks t.fr

/-- After a reset the record promises nothing, whatever `FR` holds: the base of `TheHostsRecordTracksTheFrame`. That
`FR` may hold any value then is 10_state.md R29; the record, and what it promises, is the model's inference (DEDUCED,
assumption 5), which R29 does not speak of. -/
def Obligations.TheHostsRecordHoldsAfterReset : Prop := ∀ f : Word, Duty.afterReset.tracks f

/-- 70_reset_and_hazards.md R204, R206, R207, R209: a host that keeps its duties from reset on sends only well-formed
frames. Every `GET_RAW` of a safe run answers a well-formed wire word, on a frame built by `INIT` and on a verified one
alike; so does any `GET_RAW` on such a frame with a fresh checksum, however the run came there; an allowed field setter
in range stores exactly its value, and one out of range leaves `FR`; and an allowed getter is used on a frame of which
no `VERIFY` has failed, well formed if the host did not build it. The duties are read as the records `Duty` and
`Duty.allows`, which is the model's inference (DEDUCED, assumption 5; DESIGN CHOICE, assumption 9). -/
def Obligations.SafeRunsSendWellFormedFrames : Prop :=
  (∀ (is later : List Instr) (s : State), safeRun Duty.afterReset (is ++ .getRaw :: later) s = true → ∃ t r,
    execAll (is ++ [.getRaw]) s = .next t ∧ t.resp = some r ∧ r.ok = true ∧ wellFormed r.rdata = true) ∧
  (∀ (is : List Instr) (s : State) (d : Duty), dutyAfter Duty.afterReset is s = d →
    d.sumFresh = true → (d.built = true ∨ d.verified = true) → ∃ t r,
      execAll (is ++ [.getRaw]) s = .next t ∧ t.resp = some r ∧ r.ok = true ∧ wellFormed r.rdata = true) ∧
  (∀ (set : Word → Instr) (field : Byte → BitVec 2),
    (set, field) ∈ [(Instr.setTo, toOf), (Instr.setFrom, fromOf), (Instr.setType, typeOf)] →
    ∀ (d : Duty) (s : State) (v : Word), d.tracks s.fr → d.allows (set v) = true → ∃ t, exec (set v) s = .next t ∧
      (v.toNat ≤ 3 → (field t.header).setWidth 32 = v) ∧ (3 < v.toNat → t.fr = s.fr)) ∧
  (∀ (d : Duty) (s : State) (i : Instr), i ∈ [Instr.getTo, Instr.getFrom, Instr.getType, Instr.getData] →
    d.tracks s.fr → d.allows i = true → d.failed = false ∧ (d.built = false → wellFormed s.fr = true))

/-- 60_exceptions.md R184, 70_reset_and_hazards.md R213, R215: the host's duty after an error. After `InvalidField` the
frame is as it was, the setter may be repeated, a legal value is then stored, and sending the frame before that breaks
the duty. After a failed `VERIFY` the frame is dropped: until the next `INIT` or `SET_RAW` the record allows no getter
and no `GET_RAW`, whatever is written or verified in between, while the block enforces nothing and still answers them. A
new frame is not barred. That the drop lasts exactly until then, and that a refused setter is repeated before the frame
is sent, is the model's choice (DESIGN CHOICE, assumption 9). -/
def Obligations.TheHostsDutyAfterAnError : Prop :=
  (∀ (set : Word → Instr) (use : Duty → FieldUse) (field : Byte → BitVec 2),
    (set, use, field) ∈ [(Instr.setTo, Duty.toUse, toOf), (Instr.setFrom, Duty.fromUse, fromOf),
      (Instr.setType, Duty.typeUse, typeOf)] →
    ∀ (d : Duty) (s : State) (v w : Word), d.tracks s.fr → d.built = true → use d ≠ .stored → 3 < v.toNat → w.toNat ≤ 3 →
      safeRun d [set v, .calcCsum, .getRaw] s = false ∧ safeRun d [set v, set w] s = true ∧
      ∃ t u, exec (set v) s = .next t ∧ t.fr = s.fr ∧ exec (set w) t = .next u ∧
        (field u.header).setWidth 32 = w) ∧
  (∀ (s : State), wellFormed s.fr = false →
    ∀ (is : List Instr), (∀ i ∈ is, i ≠ .init ∧ ∀ raw, i ≠ .setRaw raw) →
    ∀ j ∈ [Instr.getTo, Instr.getFrom, Instr.getType, Instr.getData, Instr.getRaw],
      (∀ (d : Duty) (later : List Instr), safeRun d (.verify :: is ++ j :: later) s = false) ∧
      ∃ t r, execAll (.verify :: is ++ [j]) s = .next t ∧ t.resp = some r ∧ r.ok = true) ∧
  (∀ (d : Duty) (s : State) (raw : Word), safeRun d [.init, .getTo] s = true ∧
    safeRun d [.setRaw raw, .verify, .getTo] s = wellFormed raw)

/-- 30_encoding.md R66, R67, R68: after every step the response ports, where they carry a meaning, carry a response the
block can give. -/
def Obligations.EveryStepKeepsTheResponseLegal : Prop :=
  ∀ s t : State, responseLegal s → step s = .next t → responseLegal t

/-- The response ports are legal right after reset. -/
def Obligations.TheResponseIsLegalAfterReset : Prop := responseLegal State.reset

/-! ## The assembler -/

/-- 30_encoding.md R71: a well-formed textual command, written under either of its names, its operand in decimal or in
hexadecimal with any number of digits that hold it, with or without a comment, assembles to its word, which decodes to a
command with the mnemonic's opcode and format; an ill-formed one, written so, is rejected. The separator and the digits'
case are the model's choice (assumption 6). -/
def Obligations.TheAssemblerReadsEveryCommandText : Prop :=
  (∀ name ∈ [spelling, sourceName], ∀ (numeral : Nat → List Char) (k : Nat) (c : Command) (comment : List Char),
    (numeral = decimalText (k + 1) ∧ c.operand.getD 0 < 10 ^ (k + 1)) ∨
      (numeral = hexText (k + 1) ∧ c.operand.getD 0 < 16 ^ (k + 1)) →
    assemble (commandText name numeral c) =
      (if c.wf = true then .command (commandWord (opcodeNumber c.mnemonic) (BitVec.ofNat 32 (c.operand.getD 0)))
        else .error .badOperand) ∧
    assemble (commandText name numeral c ++ ';' :: comment) = assemble (commandText name numeral c)) ∧
  (∀ c : Command, c.wf = true → (decode (Command.word c)).opcode = opcodeNumber c.mnemonic ∧
    (decode (Command.word c)).format = c.mnemonic.format ∧ encode (decode (Command.word c)) = Command.word c) ∧
  (∀ c : Command, c.wf = false → assembleCommand c = .error .badOperand) ∧
  assemble "SET_TO 2".toList = .command 0x100000002#36 ∧
  assemble "SET_RAW 0xC900C891".toList = .command 0xCC900C891#36
end

