-- ==== Sys2Proof/Laws/Decode.lean ====
section
/-! SUPPORT. The fields of a command word read back, and the word put together again. -/

namespace Sys2Proof

theorem commandWord_getLsbD (op : Opcode) (arg : Word) (k : Nat) :
    (commandWord op arg).getLsbD k = if k < 32 then arg.getLsbD k else op.getLsbD (k - 32) :=
  BitVec.getLsbD_append

@[simp] theorem opcodeOf_commandWord (op : Opcode) (arg : Word) : opcodeOf (commandWord op arg) = op := by
  apply BitVec.eq_of_getLsbD_eq
  intro k hk
  simp [-BitVec.getLsbD_eq_getElem, opcodeOf, commandWord_getLsbD, hk]

@[simp] theorem argOf_commandWord (op : Opcode) (arg : Word) : argOf (commandWord op arg) = arg := by
  apply BitVec.eq_of_getLsbD_eq
  intro k hk
  simp [-BitVec.getLsbD_eq_getElem, argOf, commandWord_getLsbD, hk]

@[simp] theorem commandWord_fields (w : CmdWord) : commandWord (opcodeOf w) (argOf w) = w := by
  apply BitVec.eq_of_getLsbD_eq
  intro k hk
  simp only [commandWord_getLsbD, opcodeOf, argOf, BitVec.getLsbD_extractLsb']
  by_cases h : k < 32
  · simp [-BitVec.getLsbD_eq_getElem, h]
  · simp [-BitVec.getLsbD_eq_getElem, h, show k - 32 < 4 by omega, show 32 + (k - 32) = k by omega]

/-- Every command word is some opcode with some operand. -/
theorem exists_commandWord (w : CmdWord) : ∃ op arg, w = commandWord op arg :=
  ⟨opcodeOf w, argOf w, (commandWord_fields w).symm⟩

/-- The data word of format D is what was zero-extended into the operand. -/
@[simp] theorem operandD_setWidth (d : Half) : operandD (d.setWidth 32) = d := by
  apply BitVec.eq_of_getLsbD_eq
  intro k hk
  simp [-BitVec.getLsbD_eq_getElem, operandD, hk, show k < 32 by omega]

/-- The opcode alone selects the command; its operand is taken from the argument bits. -/
theorem decode_commandWord (op : Opcode) (arg : Word) :
    decode (commandWord op arg) =
      match op.toNat with
      | 0 => .init
      | 1 => .setTo arg
      | 2 => .setFrom arg
      | 3 => .setType arg
      | 4 => .setData (operandD arg)
      | 5 => .getTo
      | 6 => .getFrom
      | 7 => .getType
      | 8 => .getData
      | 9 => .calcCsum
      | 10 => .verify
      | 11 => .getRaw
      | 12 => .setRaw arg
      | 13 => .reserved13
      | 14 => .reserved14
      | _ => .reserved15 := by
  unfold decode
  rw [opcodeOf_commandWord, argOf_commandWord]
  rfl

/-- What holds of the sixteen opcodes holds of every opcode. -/
theorem opcode_cases {P : Opcode → Prop}
    (h : P 0#4 ∧ P 1#4 ∧ P 2#4 ∧ P 3#4 ∧ P 4#4 ∧ P 5#4 ∧ P 6#4 ∧ P 7#4 ∧ P 8#4 ∧ P 9#4 ∧ P 10#4 ∧ P 11#4 ∧
      P 12#4 ∧ P 13#4 ∧ P 14#4 ∧ P 15#4) (op : Opcode) : P op := by
  obtain ⟨h0, h1, h2, h3, h4, h5, h6, h7, h8, h9, h10, h11, h12, h13, h14, h15⟩ := h
  have all : ∀ k : Fin 16, P (BitVec.ofFin k) := by
    intro k
    fin_cases k <;> assumption
  simpa using all op.toFin

section

variable (arg : Word)

@[simp] theorem decode_init : decode (commandWord 0#4 arg) = .init := decode_commandWord 0#4 arg
@[simp] theorem decode_setTo : decode (commandWord 1#4 arg) = .setTo arg := decode_commandWord 1#4 arg
@[simp] theorem decode_setFrom : decode (commandWord 2#4 arg) = .setFrom arg := decode_commandWord 2#4 arg
@[simp] theorem decode_setType : decode (commandWord 3#4 arg) = .setType arg := decode_commandWord 3#4 arg
@[simp] theorem decode_setData : decode (commandWord 4#4 arg) = .setData (operandD arg) := decode_commandWord 4#4 arg
@[simp] theorem decode_getTo : decode (commandWord 5#4 arg) = .getTo := decode_commandWord 5#4 arg
@[simp] theorem decode_getFrom : decode (commandWord 6#4 arg) = .getFrom := decode_commandWord 6#4 arg
@[simp] theorem decode_getType : decode (commandWord 7#4 arg) = .getType := decode_commandWord 7#4 arg
@[simp] theorem decode_getData : decode (commandWord 8#4 arg) = .getData := decode_commandWord 8#4 arg
@[simp] theorem decode_calcCsum : decode (commandWord 9#4 arg) = .calcCsum := decode_commandWord 9#4 arg
@[simp] theorem decode_verify : decode (commandWord 10#4 arg) = .verify := decode_commandWord 10#4 arg
@[simp] theorem decode_getRaw : decode (commandWord 11#4 arg) = .getRaw := decode_commandWord 11#4 arg
@[simp] theorem decode_setRaw : decode (commandWord 12#4 arg) = .setRaw arg := decode_commandWord 12#4 arg
@[simp] theorem decode_reserved13 : decode (commandWord 13#4 arg) = .reserved13 := decode_commandWord 13#4 arg
@[simp] theorem decode_reserved14 : decode (commandWord 14#4 arg) = .reserved14 := decode_commandWord 14#4 arg
@[simp] theorem decode_reserved15 : decode (commandWord 15#4 arg) = .reserved15 := decode_commandWord 15#4 arg

end

end Sys2Proof
end

