-- ==== Sys2Proof/Laws/Assembler.lean ====
section
/-! SUPPORT. Reading back what the assembler writes: digits, numbers, words of a line, comments. -/

namespace Sys2Proof.Machine

theorem digitValue_digitChar : ∀ n < 16, ∀ base ∈ [10, 16], n < base → digitValue base (digitChar n) = some n := by
  decide

/-- No digit is a blank, begins a comment or reads as the prefix's `x`. -/
theorem digitChar_plain : ∀ n < 16, isBlank (digitChar n) = false ∧ digitChar n ≠ ';' ∧ digitChar n ≠ 'x' := by decide

theorem digits_plain {base : Nat} (hb : base ∈ [10, 16]) (k v : Nat) :
    ∀ c ∈ digits base k v, isBlank c = false ∧ c ≠ ';' ∧ c ≠ 'x' := by
  have pos : 0 < base ∧ base ≤ 16 := by
    rcases List.mem_pair.1 hb with rfl | rfl <;> decide
  induction k with
  | zero => simp [digits]
  | succ k ih =>
    intro c hc
    rcases List.mem_cons.1 hc with rfl | h
    · exact digitChar_plain _ (lt_of_lt_of_le (Nat.mod_lt _ pos.1) pos.2)
    · exact ih c h

/-- Reading `k` digits of `v` appends them to what was read before. -/
theorem parseDigits_digits {base : Nat} (hb : base ∈ [10, 16]) (k acc v : Nat) :
    parseDigits base acc (digits base k v) = some (acc * base ^ k + v % base ^ k) := by
  have pos : 0 < base ∧ base ≤ 16 := by
    rcases List.mem_pair.1 hb with rfl | rfl <;> decide
  induction k generalizing acc with
  | zero => simp [digits, parseDigits, Nat.mod_one]
  | succ k ih =>
    have lt := Nat.mod_lt (v / base ^ k) pos.1
    have h := digitValue_digitChar (v / base ^ k % base) (lt_of_lt_of_le lt pos.2) base hb lt
    simp only [digits, parseDigits, h, ih]
    have e : v % base ^ (k + 1) = base ^ k * (v / base ^ k % base) + v % base ^ k := by
      rw [pow_succ, Nat.mod_mul]
      omega
    rw [e, pow_succ]
    congr 1
    ring

/-- A text that does not begin with the prefix `0x` is read in decimal. -/
theorem parseNumber_decimal (c : Char) (cs : List Char) (h : ∀ d ∈ cs, d ≠ 'x') :
    parseNumber (c :: cs) = parseDigits 10 0 (c :: cs) := by
  unfold parseNumber
  split
  · contradiction
  · simp_all
  · rfl

/-- A number that fits in `k + 1` decimal digits, written in that many, is read back. -/
theorem parseNumber_decimalText (k v : Nat) (hv : v < 10 ^ (k + 1)) :
    parseNumber (decimalText (k + 1) v) = some v := by
  have h := parseDigits_digits (base := 10) (by decide) (k + 1) 0 v
  rw [Nat.zero_mul, Nat.zero_add, Nat.mod_eq_of_lt hv] at h
  rw [← h]
  exact parseNumber_decimal _ _ fun d hd => (digits_plain (by decide) k v d hd).2.2

/-- A number that fits in `k + 1` hexadecimal digits, written in that many, is read back. -/
theorem parseNumber_hexText (k v : Nat) (hv : v < 16 ^ (k + 1)) : parseNumber (hexText (k + 1) v) = some v := by
  have h := parseDigits_digits (base := 16) (by decide) (k + 1) 0 v
  rw [Nat.zero_mul, Nat.zero_add, Nat.mod_eq_of_lt hv] at h
  exact h

/-- No numeral holds a blank or begins a comment. -/
theorem numerals_plain (k v : Nat) :
    (∀ c ∈ decimalText k v, isBlank c = false ∧ c ≠ ';') ∧ ∀ c ∈ hexText k v, isBlank c = false ∧ c ≠ ';' := by
  have plain {base : Nat} (hb : base ∈ [10, 16]) : ∀ c ∈ digits base k v, isBlank c = false ∧ c ≠ ';' := fun c hc =>
    ⟨(digits_plain hb k v c hc).1, (digits_plain hb k v c hc).2.1⟩
  refine ⟨plain (by decide), fun c hc => ?_⟩
  rcases List.mem_cons.1 hc with rfl | hc
  · decide
  · rcases List.mem_cons.1 hc with rfl | hc
    · decide
    · exact plain (by decide) c hc

/-- Characters that are no blanks stay in the word being read. -/
theorem wordsFrom_plain (cur l rest : List Char) (h : ∀ c ∈ l, isBlank c = false) :
    wordsFrom cur (l ++ rest) = wordsFrom (l.reverse ++ cur) rest := by
  induction l generalizing cur with
  | nil => rfl
  | cons c cs ih =>
    rw [List.cons_append, wordsFrom, h c (by simp), if_neg (by decide), ih _ (fun d hd => h d (by simp [hd]))]
    simp

/-- Both names of every mnemonic stand for it. -/
theorem lookupMnemonic_spelling (k : Mnemonic) : lookupMnemonic (spelling k) = some k := by cases k <;> decide

theorem lookupMnemonic_sourceName (k : Mnemonic) : lookupMnemonic (sourceName k) = some k := by cases k <;> decide

theorem spelling_plain (k : Mnemonic) : (spelling k).all (fun c => !isBlank c && c != ';') = true := by
  cases k <;> rfl

theorem sourceName_plain (k : Mnemonic) : (sourceName k).all (fun c => !isBlank c && c != ';') = true := by
  cases k <;> rfl

/-- No name holds a blank or begins a comment. -/
theorem names_plain (k : Mnemonic) :
    (∀ c ∈ spelling k, isBlank c = false ∧ c ≠ ';') ∧ ∀ c ∈ sourceName k, isBlank c = false ∧ c ≠ ';' := by
  have h := List.all_eq_true.1 (spelling_plain k)
  have h' := List.all_eq_true.1 (sourceName_plain k)
  exact ⟨fun c hc => by simpa using h c hc, fun c hc => by simpa using h' c hc⟩

/-- A text without `;` is not cut, and what follows a `;` is. -/
theorem stripComment_text (l comment : List Char) (h : ∀ c ∈ l, c ≠ ';') :
    stripComment l = l ∧ stripComment (l ++ ';' :: comment) = l := by
  induction l with
  | nil => exact ⟨rfl, rfl⟩
  | cons c cs ih =>
    have hc : c ≠ ';' := h c (by simp)
    obtain ⟨h1, h2⟩ := ih fun d hd => h d (by simp [hd])
    simp only [stripComment] at h1 h2 ⊢
    simp [hc, h1, h2]

end Sys2Proof.Machine
end

