-- ==== Sys2Proof/Laws/Words.lean ====
section
/-! SUPPORT. The bit-field lemmas of Machine/Operands.lean: each part of a frame word read back, the frame word put
together again, the wire word, and the fields of the header. -/

namespace Sys2Proof.Machine

theorem frameWord_getLsbD (h : Byte) (d : Half) (c : Byte) (k : Nat) :
    (frameWord h d c).getLsbD k =
      if k < 8 then c.getLsbD k else if k < 24 then d.getLsbD (k - 8) else h.getLsbD (k - 24) := by
  simp only [frameWord, BitVec.getLsbD_append]
  split
  · rfl
  · split <;> split <;> first | rfl | omega

@[simp] theorem headerOf_frameWord (h : Byte) (d : Half) (c : Byte) : headerOf (frameWord h d c) = h := by
  apply BitVec.eq_of_getLsbD_eq
  intro k hk
  simp [-BitVec.getLsbD_eq_getElem, headerOf, frameWord_getLsbD, hk, show ¬(24 + k < 8) by omega]

@[simp] theorem dataOf_frameWord (h : Byte) (d : Half) (c : Byte) : dataOf (frameWord h d c) = d := by
  apply BitVec.eq_of_getLsbD_eq
  intro k hk
  simp [-BitVec.getLsbD_eq_getElem, dataOf, frameWord_getLsbD, hk, show 8 + k < 24 by omega]

@[simp] theorem checksumOf_frameWord (h : Byte) (d : Half) (c : Byte) : checksumOf (frameWord h d c) = c := by
  apply BitVec.eq_of_getLsbD_eq
  intro k hk
  simp [-BitVec.getLsbD_eq_getElem, checksumOf, frameWord_getLsbD, hk]

@[simp] theorem frameWord_parts (f : Word) : frameWord (headerOf f) (dataOf f) (checksumOf f) = f := by
  apply BitVec.eq_of_getLsbD_eq
  intro k hk
  rw [frameWord_getLsbD]
  split
  · simp [-BitVec.getLsbD_eq_getElem, checksumOf, *]
  · split
    · simp [-BitVec.getLsbD_eq_getElem, dataOf, show k - 8 < 16 by omega, show 8 + (k - 8) = k by omega]
    · simp [-BitVec.getLsbD_eq_getElem, headerOf, show k - 24 < 8 by omega, show 24 + (k - 24) = k by omega]

/-- Two frame words with the same three parts are the same. -/
theorem word_ext_parts {f g : Word} (hh : headerOf f = headerOf g) (hd : dataOf f = dataOf g)
    (hc : checksumOf f = checksumOf g) : f = g := by
  rw [← frameWord_parts f, hh, hd, hc, frameWord_parts]

/-- The source's packing by shifts is the concatenation (20_memory.md R42). -/
@[simp] theorem wireWord_eq_frameWord (h : Byte) (d : Half) (c : Byte) : wireWord h d c = frameWord h d c := by
  apply BitVec.eq_of_getLsbD_eq
  intro k hk
  rw [frameWord_getLsbD]
  simp only [wireWord, BitVec.getLsbD_or, BitVec.getLsbD_shiftLeft, BitVec.getLsbD_setWidth]
  by_cases h8 : k < 8
  · simp [-BitVec.getLsbD_eq_getElem, h8, hk, show k < 24 by omega]
  · by_cases h24 : k < 24
    · simp [-BitVec.getLsbD_eq_getElem, h8, h24, hk, show k - 8 < 32 by omega, BitVec.getLsbD_of_ge c k (by omega)]
    · simp [-BitVec.getLsbD_eq_getElem, h8, h24, hk, show k - 24 < 32 by omega, show k - 8 < 32 by omega, BitVec.getLsbD_of_ge c k (by omega),
        BitVec.getLsbD_of_ge d (k - 8) (by omega)]

/-- The bits a part's mask selects. -/
theorem mask_getLsbD (p : Part) (k : Nat) (hk : k < 32) :
    p.mask.getLsbD k =
      match p with
      | .header => decide (24 ≤ k)
      | .data => decide (8 ≤ k) && decide (k < 24)
      | .checksum => decide (k < 8) := by
  revert k
  cases p <;> decide

/-- Agreeing on the header is having the same header. -/
theorem and_headerMask_eq_iff (f g : Word) :
    f &&& Part.header.mask = g &&& Part.header.mask ↔ headerOf f = headerOf g := by
  constructor
  · intro h
    apply BitVec.eq_of_getLsbD_eq
    intro k hk
    have := congrArg (·.getLsbD (24 + k)) h
    simpa [-BitVec.getLsbD_eq_getElem, mask_getLsbD, headerOf, hk, show 24 + k < 32 by omega] using this
  · intro h
    apply BitVec.eq_of_getLsbD_eq
    intro k hk
    by_cases h24 : 24 ≤ k
    · have := congrArg (·.getLsbD (k - 24)) h
      simpa [-BitVec.getLsbD_eq_getElem, mask_getLsbD, headerOf, hk, h24, show k - 24 < 8 by omega, show 24 + (k - 24) = k by omega] using this
    · simp [-BitVec.getLsbD_eq_getElem, mask_getLsbD, hk, h24]

/-- Agreeing on the data is having the same data. -/
theorem and_dataMask_eq_iff (f g : Word) :
    f &&& Part.data.mask = g &&& Part.data.mask ↔ dataOf f = dataOf g := by
  constructor
  · intro h
    apply BitVec.eq_of_getLsbD_eq
    intro k hk
    have := congrArg (·.getLsbD (8 + k)) h
    simpa [-BitVec.getLsbD_eq_getElem, mask_getLsbD, dataOf, hk, show 8 + k < 32 by omega, show 8 + k < 24 by omega] using this
  · intro h
    apply BitVec.eq_of_getLsbD_eq
    intro k hk
    by_cases hin : 8 ≤ k ∧ k < 24
    · have := congrArg (·.getLsbD (k - 8)) h
      simpa [-BitVec.getLsbD_eq_getElem, mask_getLsbD, dataOf, hk, hin.1, hin.2, show k - 8 < 16 by omega, show 8 + (k - 8) = k by omega] using this
    · have : ¬(8 ≤ k) ∨ ¬(k < 24) := by omega
      rcases this with h | h <;> simp [-BitVec.getLsbD_eq_getElem, mask_getLsbD, hk, h]

/-- Agreeing on the checksum is having the same checksum. -/
theorem and_checksumMask_eq_iff (f g : Word) :
    f &&& Part.checksum.mask = g &&& Part.checksum.mask ↔ checksumOf f = checksumOf g := by
  constructor
  · intro h
    apply BitVec.eq_of_getLsbD_eq
    intro k hk
    have := congrArg (·.getLsbD k) h
    simpa [-BitVec.getLsbD_eq_getElem, mask_getLsbD, checksumOf, hk, show k < 32 by omega] using this
  · intro h
    apply BitVec.eq_of_getLsbD_eq
    intro k hk
    by_cases h8 : k < 8
    · have := congrArg (·.getLsbD k) h
      simpa [-BitVec.getLsbD_eq_getElem, mask_getLsbD, checksumOf, hk, h8] using this
    · simp [-BitVec.getLsbD_eq_getElem, mask_getLsbD, hk, h8]

/-- The getters' mask and shift give exactly the two bits of the field. -/
theorem fieldExtract_eq (h : Byte) (sh : Nat) : fieldExtract h sh = (h.extractLsb' sh 2).setWidth 8 := by
  apply BitVec.eq_of_getLsbD_eq
  intro k hk
  have h3 : (3#8).getLsbD k = decide (k < 2) := by
    revert k
    decide
  simp only [fieldExtract, BitVec.getLsbD_and, BitVec.getLsbD_ushiftRight, BitVec.getLsbD_setWidth,
    BitVec.getLsbD_extractLsb', h3, hk, decide_true, Bool.true_and]
  exact Bool.and_comm _ _

end Sys2Proof.Machine
end

