-- ==== Sys2Proof/Laws/State.lean ====
section
/-! SUPPORT. One lemma per field of the state per update, so that no later proof unfolds a record update. -/

namespace Sys2Proof.Machine.State

variable (s : State)

@[simp] theorem writeFr_fr (f : Word) : (s.writeFr f).fr = f := rfl
@[simp] theorem writeFr_resp (f : Word) : (s.writeFr f).resp = s.resp := rfl
@[simp] theorem writeFr_inputs (f : Word) : (s.writeFr f).inputs = s.inputs := rfl
@[simp] theorem writeFr_resets (f : Word) : (s.writeFr f).resets = s.resets := rfl

@[simp] theorem writeHeader_header (h : Byte) : (s.writeHeader h).header = h := by simp [writeHeader, header]
@[simp] theorem writeHeader_data (h : Byte) : (s.writeHeader h).data = s.data := by simp [writeHeader, data]
@[simp] theorem writeHeader_checksum (h : Byte) : (s.writeHeader h).checksum = s.checksum := by
  simp [writeHeader, checksum]
@[simp] theorem writeHeader_fr (h : Byte) : (s.writeHeader h).fr = frameWord h s.data s.checksum := rfl
@[simp] theorem writeHeader_resp (h : Byte) : (s.writeHeader h).resp = s.resp := rfl
@[simp] theorem writeHeader_inputs (h : Byte) : (s.writeHeader h).inputs = s.inputs := rfl
@[simp] theorem writeHeader_resets (h : Byte) : (s.writeHeader h).resets = s.resets := rfl

@[simp] theorem writeData_header (d : Half) : (s.writeData d).header = s.header := by simp [writeData, header]
@[simp] theorem writeData_data (d : Half) : (s.writeData d).data = d := by simp [writeData, data]
@[simp] theorem writeData_checksum (d : Half) : (s.writeData d).checksum = s.checksum := by
  simp [writeData, checksum]
@[simp] theorem writeData_fr (d : Half) : (s.writeData d).fr = frameWord s.header d s.checksum := rfl
@[simp] theorem writeData_resp (d : Half) : (s.writeData d).resp = s.resp := rfl
@[simp] theorem writeData_inputs (d : Half) : (s.writeData d).inputs = s.inputs := rfl
@[simp] theorem writeData_resets (d : Half) : (s.writeData d).resets = s.resets := rfl

@[simp] theorem writeChecksum_header (c : Byte) : (s.writeChecksum c).header = s.header := by
  simp [writeChecksum, header]
@[simp] theorem writeChecksum_data (c : Byte) : (s.writeChecksum c).data = s.data := by simp [writeChecksum, data]
@[simp] theorem writeChecksum_checksum (c : Byte) : (s.writeChecksum c).checksum = c := by
  simp [writeChecksum, checksum]
@[simp] theorem writeChecksum_fr (c : Byte) : (s.writeChecksum c).fr = frameWord s.header s.data c := rfl
@[simp] theorem writeChecksum_resp (c : Byte) : (s.writeChecksum c).resp = s.resp := rfl
@[simp] theorem writeChecksum_inputs (c : Byte) : (s.writeChecksum c).inputs = s.inputs := rfl
@[simp] theorem writeChecksum_resets (c : Byte) : (s.writeChecksum c).resets = s.resets := rfl

@[simp] theorem respond_fr (r : Response) : (s.respond r).fr = s.fr := rfl
@[simp] theorem respond_resp (r : Response) : (s.respond r).resp = some r := rfl
@[simp] theorem respond_inputs (r : Response) : (s.respond r).inputs = s.inputs := rfl
@[simp] theorem respond_resets (r : Response) : (s.respond r).resets = s.resets := rfl
@[simp] theorem respond_header (r : Response) : (s.respond r).header = s.header := rfl
@[simp] theorem respond_data (r : Response) : (s.respond r).data = s.data := rfl
@[simp] theorem respond_checksum (r : Response) : (s.respond r).checksum = s.checksum := rfl

@[simp] theorem succeed_fr (v : Word) : (s.succeed v).fr = s.fr := rfl
@[simp] theorem succeed_resp (v : Word) : (s.succeed v).resp = some (successResponse v) := rfl
@[simp] theorem succeed_inputs (v : Word) : (s.succeed v).inputs = s.inputs := rfl
@[simp] theorem succeed_resets (v : Word) : (s.succeed v).resets = s.resets := rfl

@[simp] theorem raise_fr (e : ErrorKind) : (s.raise e).fr = s.fr := rfl
@[simp] theorem raise_resp (e : ErrorKind) : (s.raise e).resp = some (errorResponse e) := rfl
@[simp] theorem raise_inputs (e : ErrorKind) : (s.raise e).inputs = s.inputs := rfl
@[simp] theorem raise_resets (e : ErrorKind) : (s.raise e).resets = s.resets := rfl

@[simp] theorem resetEvent_fr (v : Word) : (s.resetEvent v).fr = v := rfl
@[simp] theorem resetEvent_resp (v : Word) : (s.resetEvent v).resp = none := rfl
@[simp] theorem resetEvent_inputs (v : Word) : (s.resetEvent v).inputs = s.inputs := rfl
@[simp] theorem resetEvent_resets (v : Word) : (s.resetEvent v).resets = s.resets + 1 := rfl

@[simp] theorem idle_fr : s.idle.fr = s.fr := rfl
@[simp] theorem idle_resp : s.idle.resp = none := rfl
@[simp] theorem idle_inputs : s.idle.inputs = s.inputs := rfl
@[simp] theorem idle_resets : s.idle.resets = s.resets := rfl

@[simp] theorem takeCycle_fr : s.takeCycle.fr = s.fr := rfl
@[simp] theorem takeCycle_resp : s.takeCycle.resp = s.resp := rfl
@[simp] theorem takeCycle_inputs : s.takeCycle.inputs = s.inputs.drop 1 := rfl
@[simp] theorem takeCycle_resets : s.takeCycle.resets = s.resets := rfl

@[simp] theorem present_fr (is : List Instr) : (State.present is s).fr = s.fr := rfl
@[simp] theorem present_resp (is : List Instr) : (State.present is s).resp = s.resp := rfl
@[simp] theorem present_resets (is : List Instr) : (State.present is s).resets = s.resets := rfl

/-- Two states with equal fields are equal. -/
theorem ext_fields {s t : State} (hf : s.fr = t.fr) (hr : s.resp = t.resp) (hi : s.inputs = t.inputs)
    (hn : s.resets = t.resets) : s = t := by
  cases s
  cases t
  simp_all

end Sys2Proof.Machine.State
end

