-- ==== Sys2Proof/Laws/Ops.lean ====
section
/-! SUPPORT. One lemma per shared operation that says everything it can do. -/

namespace Sys2Proof.Machine

/-- A field setter has two outcomes: success with the OR done, or `InvalidField` with nothing written. -/
theorem setField_cases (sh : Nat) (v : Word) (s : State) :
    (fieldInRange v = true ∧
        setField sh v s = .next ((s.writeHeader (s.header ||| fieldInsert v sh)).succeed 0#32)) ∨
      (fieldInRange v = false ∧ setField sh v s = .next (s.raise .invalidField)) := by
  cases h : fieldInRange v
  · exact .inr ⟨rfl, by simp [setField, h]⟩
  · exact .inl ⟨rfl, by simp [setField, h]⟩

/-- The range check, as a comparison of numbers. -/
theorem fieldInRange_iff (v : Word) : fieldInRange v = true ↔ v.toNat ≤ 3 := by
  simp [fieldInRange, Config.fieldMax, BitVec.le_def]

/-- A field getter always succeeds with the two bits of the field, zero-extended. -/
theorem getField_eq (sh : Nat) (s : State) :
    getField sh s = .next (s.succeed ((s.header.extractLsb' sh 2).setWidth 32)) := by
  have : ((s.header.extractLsb' sh 2).setWidth 8).setWidth 32 = (s.header.extractLsb' sh 2).setWidth 32 := by
    apply BitVec.eq_of_toNat_eq
    have := (s.header.extractLsb' sh 2).isLt
    simp only [BitVec.toNat_setWidth]
    omega
  rw [getField, fieldExtract_eq, this]

/-- `FR` is its three parts. -/
theorem frameWord_state (s : State) : frameWord s.header s.data s.checksum = s.fr := frameWord_parts s.fr

/-- What a command cycle asks for is its word. -/
@[simp] theorem cycleEvent_commandCycle (w : CmdWord) : cycleEvent (commandCycle w) = .command w := by
  simp [cycleEvent, commandCycle]

/-- A reset cycle asks for a reset, whatever the command ports carry. -/
theorem cycleEvent_reset (c : PortCycle) (h : c.rst = true) : cycleEvent c = .reset := by simp [cycleEvent, h]

/-- The reset is the only event of a cycle with `rst = 1`. -/
theorem cycleEvent_reset_iff (c : PortCycle) : cycleEvent c = .reset ↔ c.rst = true := by
  cases h : c.rst <;> cases h' : c.cmdValid <;> simp [cycleEvent, h, h']

/-- The errors' masks as numbers. -/
theorem errorMask_values :
    errorMask .invalidField = 0x01#5 ∧ errorMask .nullOrMissingFrame = 0x02#5 ∧
      errorMask .checksumMismatch = 0x04#5 ∧ errorMask .framingError = 0x08#5 ∧
        errorMask .illegalCommand = 0x10#5 := by decide

/-- The four values the `err` of `VERIFY` takes, by which check failed. -/
theorem verifyErr_cases (f : Word) :
    verifyErr f =
      match sumOk f, framingOk f with
      | true, true => 0x00#5
      | false, true => 0x04#5
      | true, false => 0x08#5
      | false, false => 0x0C#5 := by
  cases h : sumOk f <;> cases h' : framingOk f <;> simp [verifyErr, errorIf, errorMask, errorBit, h, h']

end Sys2Proof.Machine
end

