-- ==== Sys2Proof/Laws/Exec.lean ====
section
/-! SUPPORT. Everything any command can do, said once: it gives `FR` a value and answers a response, both functions of
`FR` alone, and touches nothing else. Determinism, frames and independence of the other fields follow from it. -/

namespace Sys2Proof.Machine

/-- `SET_RAW` writes the word itself: the three parts put together again. -/
theorem execSetRaw_eq (raw : Word) (s : State) : execSetRaw raw s = .next ((s.writeFr raw).succeed 0#32) := by
  rw [execSetRaw, frameWord_parts]

/-- A command gives a next state in which `FR` and the response are functions of the old `FR` alone. -/
theorem exec_shape (i : Instr) :
    ∃ (F : Word → Word) (R : Word → Response),
      ∀ s : State, exec i s = .next { s with fr := F s.fr, resp := some (R s.fr) } := by
  have field : ∀ (sh : Nat) (v : Word), ∃ (F : Word → Word) (R : Word → Response),
      ∀ s : State, setField sh v s = .next { s with fr := F s.fr, resp := some (R s.fr) } := by
    intro sh v
    cases h : fieldInRange v
    · exact ⟨id, fun _ => errorResponse .invalidField, fun s => by simp only [setField, h]; rfl⟩
    · exact ⟨fun f => frameWord (headerOf f ||| fieldInsert v sh) (dataOf f) (checksumOf f),
        fun _ => successResponse 0#32, fun s => by simp only [setField, h]; rfl⟩
  have get : ∀ sh : Nat, ∃ (F : Word → Word) (R : Word → Response),
      ∀ s : State, getField sh s = .next { s with fr := F s.fr, resp := some (R s.fr) } := fun sh =>
    ⟨id, fun f => successResponse ((fieldExtract (headerOf f) sh).setWidth 32), fun _ => rfl⟩
  have illegal : ∃ (F : Word → Word) (R : Word → Response),
      ∀ s : State, illegalCommand s = .next { s with fr := F s.fr, resp := some (R s.fr) } :=
    ⟨id, fun _ => errorResponse .illegalCommand, fun _ => rfl⟩
  cases i with
  | init =>
    exact ⟨fun _ => frameWord (0x00#8 ||| Config.markers) 0x0000#16 0x00#8, fun _ => successResponse 0#32, fun _ => rfl⟩
  | setTo v => exact field _ v
  | setFrom v => exact field _ v
  | setType v => exact field _ v
  | setData d =>
    exact ⟨fun f => frameWord (headerOf f) d (checksumOf f), fun _ => successResponse 0#32, fun _ => rfl⟩
  | getTo => exact get _
  | getFrom => exact get _
  | getType => exact get _
  | getData => exact ⟨id, fun f => successResponse ((dataOf f).setWidth 32), fun _ => rfl⟩
  | calcCsum =>
    exact ⟨fun f => frameWord (headerOf f) (dataOf f) (csum (headerOf f) (dataOf f)), fun _ => successResponse 0#32,
      fun _ => rfl⟩
  | verify => exact ⟨id, verifyResponse, fun _ => rfl⟩
  | getRaw =>
    exact ⟨id, fun f => successResponse (wireWord (headerOf f) (dataOf f) (checksumOf f)), fun _ => rfl⟩
  | setRaw raw => exact ⟨fun _ => raw, fun _ => successResponse 0#32, execSetRaw_eq raw⟩
  | reserved13 => exact illegal
  | reserved14 => exact illegal
  | reserved15 => exact illegal

/-- What a command leaves unchanged whatever it is: the host's inputs and the count of reset events. -/
theorem exec_inputs_resets {i : Instr} {s t : State} (h : exec i s = .next t) :
    t.inputs = s.inputs ∧ t.resets = s.resets := by
  obtain ⟨F, R, e⟩ := exec_shape i
  rw [e] at h
  cases h
  exact ⟨rfl, rfl⟩

/-- Every command leaves a response on the ports. -/
theorem exec_resp {i : Instr} {s t : State} (h : exec i s = .next t) : ∃ r, t.resp = some r := by
  obtain ⟨F, R, e⟩ := exec_shape i
  rw [e] at h
  cases h
  exact ⟨_, rfl⟩

/-- The three things one step can be: a reset event, an idle cycle, or a command executed on the state with its cycle
taken. -/
theorem step_cases (s : State) :
    (s.nextEvent = .reset ∧ step s = .next (s.takeCycle.resetEvent (Config.frReset s.resets))) ∨
      (s.nextEvent = .idle ∧ step s = .next s.takeCycle.idle) ∨
        ∃ w, s.nextEvent = .command w ∧ step s = exec (decode w) s.takeCycle := by
  cases h : s.nextEvent with
  | reset => exact .inl ⟨rfl, by simp only [step, h]⟩
  | idle => exact .inr (.inl ⟨rfl, by simp only [step, h]⟩)
  | command w => exact .inr (.inr ⟨w, rfl, by simp only [step, h]⟩)

end Sys2Proof.Machine
end

