-- ==== Sys2Proof/Laws/PerInstr.lean ====
section
/-! SUPPORT. Facts stated per instruction. `EncodedOpcode`: bits 35-32 of the canonical word of a command are the
command's opcode number (30_encoding.md R63, R71). -/

namespace Sys2Proof.Laws.EncodedOpcode

/-- The opcode bits of the canonical word. -/
def Statement (i : Instr) : Prop := opcodeOf (encode i) = i.opcode

theorem init : Statement .init := opcodeOf_commandWord _ _
theorem setTo (v : Word) : Statement (.setTo v) := opcodeOf_commandWord _ _
theorem setFrom (v : Word) : Statement (.setFrom v) := opcodeOf_commandWord _ _
theorem setType (v : Word) : Statement (.setType v) := opcodeOf_commandWord _ _
theorem setData (value : Half) : Statement (.setData value) := opcodeOf_commandWord _ _
theorem getTo : Statement .getTo := opcodeOf_commandWord _ _
theorem getFrom : Statement .getFrom := opcodeOf_commandWord _ _
theorem getType : Statement .getType := opcodeOf_commandWord _ _
theorem getData : Statement .getData := opcodeOf_commandWord _ _
theorem calcCsum : Statement .calcCsum := opcodeOf_commandWord _ _
theorem verify : Statement .verify := opcodeOf_commandWord _ _
theorem getRaw : Statement .getRaw := opcodeOf_commandWord _ _
theorem setRaw (raw : Word) : Statement (.setRaw raw) := opcodeOf_commandWord _ _
theorem reserved13 : Statement .reserved13 := opcodeOf_commandWord _ _
theorem reserved14 : Statement .reserved14 := opcodeOf_commandWord _ _
theorem reserved15 : Statement .reserved15 := opcodeOf_commandWord _ _

end Sys2Proof.Laws.EncodedOpcode
end

