-- ==== Sys2Proof/Laws/Run.lean ====
section
/-! SUPPORT. Running commands one after the other: every sequence completes, and sequences compose. -/

namespace Sys2Proof.Machine

theorem execAll_cons {i : Instr} {s t : State} (h : exec i s = .next t) (is : List Instr) :
    execAll (i :: is) s = execAll is t := by
  simp only [execAll, h]

/-- Every command gives a next state, so every sequence of commands does. -/
theorem execAll_next (is : List Instr) (s : State) : ∃ t, execAll is s = .next t := by
  induction is generalizing s with
  | nil => exact ⟨s, rfl⟩
  | cons i is ih =>
    obtain ⟨F, R, e⟩ := exec_shape i
    rw [execAll_cons (e s)]
    exact ih _

theorem execAll_append {is : List Instr} {s t : State} (h : execAll is s = .next t) (js : List Instr) :
    execAll (is ++ js) s = execAll js t := by
  induction is generalizing s with
  | nil =>
    cases h
    rfl
  | cons i is ih =>
    obtain ⟨F, R, e⟩ := exec_shape i
    rw [execAll_cons (e s)] at h
    rw [List.cons_append, execAll_cons (e s)]
    exact ih h

/-- One more step of a machine, once that step is known. -/
theorem run_of_step (M : Host.Core) (k : Nat) {s t : M.State} (h : M.step s = .next t) :
    M.run (k + 1) s = M.run k t := by
  rw [Host.Core.run, h]

end Sys2Proof.Machine
end

