-- ==== Sys2Proof/Tests/Slice0.lean ====
section
/-! SUPPORT. The model's own tests. Expected values come from 95_test_vectors.md (the section is named in each comment)
or from the rule named. The witnesses at the end show, for every statement with hypotheses, a state and operands that
meet all of them. -/

namespace Sys2Proof.Tests

open Sys2Proof.Machine Sys2Proof.Safety

/-- A state that holds the frame word `f`, with nothing else to see. -/
def frame (f : Word) : State := { fr := f, resp := none, inputs := [], resets := 1 }

/-- `FR` and the response after a command: what a row of 95_test_vectors.md gives. -/
def row (o : Host.Outcome State Fault Refusal) : Option (Word × Option Response) :=
  match o with
  | .next t => some (t.fr, t.resp)
  | .fault _ => none
  | .refused _ => none

/-- A row's expected answer. -/
def gives (f : Word) (ok : Bool) (err : ErrMask) (rdata : Word) : Option (Word × Option Response) :=
  some (f, some { ok := ok, err := err, rdata := rdata })

/-! ## Well-formedness: an ill-formed textual command for each check (R71) -/

theorem test_wf_operand_not_allowed : Command.wf ⟨.init, some 0⟩ = false := by decide
theorem test_wf_format_f_missing : Command.wf ⟨.setTo, none⟩ = false := by decide
theorem test_wf_format_f_too_large : Command.wf ⟨.setTo, some (2 ^ 32)⟩ = false := by decide
theorem test_wf_format_d_missing : Command.wf ⟨.setData, none⟩ = false := by decide
theorem test_wf_format_d_too_large : Command.wf ⟨.setData, some 0x10000⟩ = false := by decide
theorem test_wf_format_r_missing : Command.wf ⟨.setRaw, none⟩ = false := by decide
theorem test_wf_format_r_too_large : Command.wf ⟨.setRaw, some (2 ^ 32)⟩ = false := by decide
theorem test_wf_largest_operands :
    Command.wf ⟨.setTo, some (2 ^ 32 - 1)⟩ && Command.wf ⟨.setData, some 0xFFFF⟩ &&
      Command.wf ⟨.setRaw, some (2 ^ 32 - 1)⟩ && Command.wf ⟨.init, none⟩ = true := by decide

/-! ## Decoding: every constructor from a word written out from R63 and R61 -/

theorem test_decode_init : decode 0b000011011110101011011011111011101111#36 = .init := by decide
theorem test_decode_setTo : decode 0b000100000000000000000000000000000010#36 = .setTo 2#32 := by decide
theorem test_decode_setFrom : decode 0b001010000000000000000000000000000000#36 = .setFrom 0x80000000#32 := by decide
theorem test_decode_setType : decode 0b001111111111111111111111111111111111#36 = .setType 0xFFFFFFFF#32 := by decide
theorem test_decode_setData : decode 0b010000010010001101001010101111001101#36 = .setData 0xABCD#16 := by decide
theorem test_decode_getTo : decode 0b010100000000000000000000000000000000#36 = .getTo := by decide
theorem test_decode_getFrom : decode 0b011000000000000000000000000000000000#36 = .getFrom := by decide
theorem test_decode_getType : decode 0b011100000000000000000000000000000000#36 = .getType := by decide
theorem test_decode_getData : decode 0b100000000000000000000000000000000000#36 = .getData := by decide
theorem test_decode_calcCsum : decode 0b100100000000000000000000000000000000#36 = .calcCsum := by decide
theorem test_decode_verify : decode 0b101000000000000000000000000000000000#36 = .verify := by decide
theorem test_decode_getRaw : decode 0b101100000000000000000000000000000000#36 = .getRaw := by decide
theorem test_decode_setRaw : decode 0b110011001001000000001100100010010001#36 = .setRaw 0xC900C891#32 := by decide
theorem test_decode_reserved13 : decode 0b110100000000000000000000000000000000#36 = .reserved13 := by decide
theorem test_decode_reserved14 : decode 0b111011111111111111111111111111111111#36 = .reserved14 := by decide
theorem test_decode_reserved15 : decode 0b111100000000000000000000000000000010#36 = .reserved15 := by decide

/-- A number of more than 36 bits is no command word (R61). -/
theorem test_decode_too_wide :
    decodeNumber 0x1000000000 = .error .tooWide ∧ decodeTableWord 40 0x1000000000 = none := ⟨rfl, rfl⟩
theorem test_decode_table_word : decodeTableWord 40 0xCC900C891 = some (.setRaw 0xC900C891#32) := by decide

/-- No two rows of R63 select the same word: their patterns differ under one common mask. -/
theorem test_opcode_table_disjoint :
    opcodeTable.Pairwise (fun r q => r.mask = q.mask ∧ r.pat ≠ q.pat) ∧ opcodeTable.length = 16 := by decide

/-! ## One step of each command: rows of 95_test_vectors.md section 2 -/

-- 2.1
theorem test_init : row (exec .init (frame 0x12345678#32)) = gives 0x81000000#32 true 0#5 0#32 := by decide
-- 2.2, rows 16 and 8
theorem test_setTo_accumulates : row (exec (.setTo 1#32) (frame 0xC1000000#32)) = gives 0xE1000000#32 true 0#5 0#32 := by
  decide
theorem test_setTo_not_truncated :
    row (exec (.setTo 0x100#32) (frame 0x81000000#32)) = gives 0x81000000#32 false 0x01#5 0#32 := by decide
-- 2.3, rows 18 and 5
theorem test_setFrom_stale : row (exec (.setFrom 3#32) (frame 0xC900C891#32)) = gives 0xD900C891#32 true 0#5 0#32 := by
  decide
theorem test_setFrom_four : row (exec (.setFrom 4#32) (frame 0x81000000#32)) = gives 0x81000000#32 false 0x01#5 0#32 := by
  decide
-- 2.4, rows 11 and 10
theorem test_setType_no_marker : row (exec (.setType 3#32) (frame 0#32)) = gives 0x06000000#32 true 0#5 0#32 := by decide
theorem test_setType_all_ones :
    row (exec (.setType 0xFFFFFFFF#32) (frame 0x81000000#32)) = gives 0x81000000#32 false 0x01#5 0#32 := by decide
-- 2.5, row 6
theorem test_setData_overwrites :
    row (exec (.setData 0x1234#16) (frame 0xC900C891#32)) = gives 0xC9123491#32 true 0#5 0#32 := by decide
-- 2.6, the frames 0xB7ABCD00 and 0x7E123456
theorem test_getTo : row (exec .getTo (frame 0xB7ABCD00#32)) = gives 0xB7ABCD00#32 true 0#5 1#32 := by decide
theorem test_getFrom : row (exec .getFrom (frame 0xB7ABCD00#32)) = gives 0xB7ABCD00#32 true 0#5 2#32 := by decide
theorem test_getType : row (exec .getType (frame 0xB7ABCD00#32)) = gives 0xB7ABCD00#32 true 0#5 3#32 := by decide
theorem test_getTo_no_marker : row (exec .getTo (frame 0x7E123456#32)) = gives 0x7E123456#32 true 0#5 3#32 := by decide
theorem test_getData : row (exec .getData (frame 0xB7ABCD00#32)) = gives 0xB7ABCD00#32 true 0#5 0xABCD#32 := by decide
-- 2.7, rows 3 and 6
theorem test_calcCsum_two_carries : row (exec .calcCsum (frame 0xFFFFFF00#32)) = gives 0xFFFFFFFD#32 true 0#5 0#32 := by
  decide
theorem test_calcCsum_overwrites : row (exec .calcCsum (frame 0x000000AA#32)) = gives 0#32 true 0#5 0#32 := by decide
-- 2.8, rows 9 and 16
theorem test_verify_both : row (exec .verify (frame 0x4900C891#32)) = gives 0x4900C891#32 false 0x0C#5 0#32 := by decide
theorem test_verify_wraps : row (exec .verify (frame 0x817F0000#32)) = gives 0x817F0000#32 true 0#5 0#32 := by decide
-- 2.9
theorem test_getRaw : row (exec .getRaw (frame 0x12345678#32)) = gives 0x12345678#32 true 0#5 0x12345678#32 := by decide
theorem test_setRaw : row (exec (.setRaw 0x4900C811#32) (frame 0x12345678#32)) = gives 0x4900C811#32 true 0#5 0#32 := by
  decide
-- 2.10
theorem test_reserved13 : row (exec .reserved13 (frame 0xC900C891#32)) = gives 0xC900C891#32 false 0x10#5 0#32 := by decide
theorem test_reserved14 : row (exec .reserved14 (frame 0xC900C891#32)) = gives 0xC900C891#32 false 0x10#5 0#32 := by decide
theorem test_reserved15 : row (exec .reserved15 (frame 0x81000000#32)) = gives 0x81000000#32 false 0x10#5 0#32 := by decide

/-! ## The step -/

/-- Reset wins over a command presented in the same cycle (R201): the response ports show nothing. -/
theorem test_step_reset_wins :
    (match step { frame 0x81000000#32 with inputs := [⟨true, true, 1#4, 2#32⟩] } with
      | .next t => decide (t.resp = none ∧ t.inputs = [] ∧ t.resets = 2)
      | .fault _ => false
      | .refused _ => false) = true := by decide

/-- `SET_TO 2` placed as the host places it runs in the very next step (R102). -/
theorem test_step_fetch_word :
    row (step ((frame 0x81000000#32).withFetchWord 40 0x100000002)) = gives 0xC1000000#32 true 0#5 0#32 := by decide

/-- The first step after reset runs the presented command whatever the reset draw is (R90). -/
theorem test_step_from_reset :
    row (step (State.reset.withFetchWord 40 0x0DEADBEEF)) = gives 0x81000000#32 true 0#5 0#32 := by decide

/-! ## The assembler (R71) -/

theorem test_assemble_examples :
    assemble "SET_TO 2".toList = .command 0x100000002#36 ∧
      assemble "SetRawData 0xC900C891 ; a word".toList = .command 0xCC900C891#36 := by decide

/-! ## Witnesses: the hypotheses of the statements can be met -/

theorem test_witness_IgnoredOperandBits :
    0x1234ABCD#32 &&& (decode (commandWord 4#4 0x1234ABCD#32)).format.usedBits =
      0xFFFFABCD#32 &&& (decode (commandWord 4#4 0x1234ABCD#32)).format.usedBits := by decide

theorem test_witness_StepRunsTheDecodedCommand :
    ∃ (s : State) (c : PortCycle), s.inputs = [c] ∧ c.rst = false ∧ c.cmdValid = true ∧
      decode (commandWord c.cmdOp c.cmdArg) = .setTo 2#32 :=
  ⟨{ frame 0#32 with inputs := [⟨false, true, 1#4, 2#32⟩] }, _, rfl, rfl, rfl, by decide⟩

theorem test_witness_IdleCycleHoldsTheFrame :
    (∃ (s : State) (c : PortCycle), s.inputs = [c] ∧ c.rst = false ∧ c.cmdValid = false) ∧
      ∃ s : State, s.inputs = [] :=
  ⟨⟨{ frame 0#32 with inputs := [⟨false, false, 1#4, 2#32⟩] }, _, rfl, rfl, rfl⟩, frame 0#32, rfl⟩

theorem test_witness_ResetWinsOverACommand : ∃ (s : State) (c : PortCycle), s.inputs = [c] ∧ c.rst = true :=
  ⟨{ frame 0#32 with inputs := [⟨true, true, 1#4, 2#32⟩] }, _, rfl, rfl⟩

theorem test_witness_OnlyResetOrAWritingCommand :
    ∃ s t : State, step s = .next t ∧ t.fr ≠ s.fr :=
  ⟨(frame 0x81000000#32).withFetchWord 36 0x100000002, _, rfl, by decide⟩

theorem test_witness_FrameAfterInit : ∃ t, exec .init (frame 0xFFFFFFFF#32) = .next t := ⟨_, rfl⟩

/-- The boundary of the range check (R100): 3 is the last value that passes, 4 the first that fails. -/
theorem test_witness_setters_range : (3#32).toNat ≤ 3 ∧ 3 < (4#32).toNat ∧ 3 < (0x100#32).toNat := by decide

theorem test_witness_InvalidField :
    ∃ t r, exec (.setType 4#32) (frame 0#32) = .next t ∧ t.resp = some r ∧ r.err.getLsbD 0 = true :=
  ⟨_, _, rfl, rfl, by decide⟩

theorem test_witness_FieldSettersOrAccumulate :
    ∃ t, exec (.setTo 1#32) (frame 0x81000000#32) = .next t ∧ t.header.getLsbD 5 ≠ (frame 0x81000000#32).header.getLsbD 5 :=
  ⟨_, rfl, by decide⟩

theorem test_witness_commands_answer :
    (∃ t, exec .verify (frame 0xC900C891#32) = .next t) ∧
      (∃ t, exec (.setRaw 0x12345678#32) (frame 0#32) = .next t) ∧
        ∃ t, exec .reserved13 (frame 0#32) = .next t := ⟨⟨_, rfl⟩, ⟨_, rfl⟩, ⟨_, rfl⟩⟩

theorem test_witness_RawCodecRoundTrips :
    ∃ t a, exec .getRaw (frame 0xC900C891#32) = .next t ∧ t.resp = some a := ⟨_, _, rfl, rfl⟩

theorem test_witness_SetThenGetOnAFreshFrame :
    [Instr.setType 0#32, .setTo 2#32, .setFrom 3#32].Perm [.setTo 2#32, .setFrom 3#32, .setType 0#32] := by decide

theorem test_witness_SetThenGetInGeneral :
    ∃ t, exec .init (frame 0xE1000000#32) = .next t ∧ (frame 0xE1000000#32).header.extractLsb' 5 2 ≠ 0#2 ∧
      t.header.extractLsb' 5 2 = 0#2 := ⟨_, rfl, by decide, by decide⟩

theorem test_witness_ChecksumStaysFresh :
    (∀ i ∈ [Instr.getTo, .setTo 4#32, .reserved14], writes i = []) ∧
      ∃ t u, exec .calcCsum (frame 0xC900C800#32) = .next t ∧ exec (.setTo 1#32) t = .next u ∧ u.fr ≠ t.fr :=
  ⟨by decide, _, _, rfl, rfl, by decide⟩

theorem test_witness_ChecksumStaysFresh_setData :
    ∃ t u, exec .calcCsum (frame 0xC900C800#32) = .next t ∧ exec (.setData 0x00C9#16) t = .next u := ⟨_, _, rfl, rfl⟩

theorem test_witness_SenderCommands :
    [Instr.setData 0x00C8#16, .setType 0#32, .setTo 2#32, .setFrom 1#32].Perm
      [.setTo 2#32, .setFrom 1#32, .setType 0#32, .setData 0x00C8#16] := by decide

/-- R204 allows a setter to be left out: here `SET_FROM`. -/
theorem test_witness_SenderCommands_omitted :
    [Instr.setData 0x00C8#16, .setType 0#32, .setTo 3#32].Perm
        ((some 3#32).toList.map Instr.setTo ++ (none : Option Word).toList.map Instr.setFrom ++
          (some 0#32).toList.map Instr.setType ++ (some 0x00C8#16).toList.map Instr.setData) ∧
      ∀ v ∈ (some 3#32).toList ++ (none : Option Word).toList ++ (some 0#32).toList, v.toNat ≤ 3 := by
  refine ⟨?_, by simp⟩
  change [Instr.setData 0x00C8#16, .setType 0#32, .setTo 3#32].Perm [.setTo 3#32, .setType 0#32, .setData 0x00C8#16]
  decide

theorem test_witness_SingleBitChange : (31 < 32) ∧ wellFormed 0xC900C891#32 = true := by decide

theorem test_witness_ChangesNeverDetected :
    (0xC9#8 + 0x02#8).getLsbD 7 = (0xC9#8).getLsbD 7 ∧ (0xC9#8 + 0x02#8).getLsbD 0 = (0xC9#8).getLsbD 0 := by decide

theorem test_witness_ErrorBits_two_at_once :
    ∃ t r, exec .verify (frame 0x4900C891#32) = .next t ∧ t.resp = some r ∧ r.err.getLsbD 2 = true ∧
      r.err.getLsbD 3 = true := ⟨_, _, rfl, rfl, by decide, by decide⟩

theorem test_witness_FailingCommands :
    ∃ t r, exec .reserved15 (frame 0x81000000#32) = .next t ∧ t.resp = some r ∧ r.ok = false :=
  ⟨_, _, rfl, rfl, by decide⟩

theorem test_witness_VerifyErrors :
    (frame 0xC900C890#32).checksum ≠ csum (frame 0xC900C890#32).header (frame 0xC900C890#32).data ∧
      (frame 0xC900C891#32).checksum = csum (frame 0xC900C891#32).header (frame 0xC900C891#32).data ∧
        preOf (frame 0x4900C811#32).header = false ∧ postOf (frame 0xC800C890#32).header = false ∧
          preOf (frame 0xC900C891#32).header = true ∧ postOf (frame 0xC900C891#32).header = true := by decide

theorem test_witness_CommandsChangeOnlyTheirParts :
    Part.header ∉ writes (.setData 1#16) ∧ Part.header ∉ writes (.setTo 4#32) ∧ Part.data ∉ writes (.setTo 3#32) := by
  decide

theorem test_witness_CommandsDependOnlyOnTheirParts :
    agreeOn (reads .getData) 0x00FFFF00#32 0x81FFFF7F#32 ∧ (frame 0x00FFFF00#32).fr ≠ (frame 0x81FFFF7F#32).fr := by
  refine ⟨?_, by decide⟩
  unfold agreeOn
  decide

theorem test_witness_FrameObservable :
    Instr.setTo 1#32 ∉ [Instr.getTo, .getFrom, .getType, .getData, .verify, .getRaw] ∧
      ∀ w, (frame 0#32).nextEvent ≠ .command w := ⟨by decide, fun _ h => by cases h⟩

theorem test_witness_ReadsReturnTheMostRecentWrite :
    ∀ i ∈ [Instr.setTo 3#32, .calcCsum, .verify], ∀ p ∈ reads .getData, p ∉ writes i := by decide

/-- `GET_DATA` after a `SET_DATA` that a `CALC_CSUM` follows: the written value; `GET_TO` after it: the old header. -/
theorem test_witness_ReadsReturnTheMostRecentWrite_written :
    (∀ p ∈ reads .getData, Claims.mostRecentWrite [.setData 0xABCD#16, .calcCsum] (frame 0xC900C891#32) p
      (0x00ABCD00#32 &&& p.mask)) ∧
      ∀ p ∈ reads .getTo, Claims.mostRecentWrite [.setData 0xABCD#16, .calcCsum] (frame 0xC900C891#32) p
        (0xC9000000#32 &&& p.mask) := by
  constructor <;> intro p hp <;> rw [List.mem_singleton.1 hp]
  · exact .inl ⟨[], _, _, _, rfl, by decide, by decide, rfl, by decide⟩
  · exact .inr ⟨by decide, by decide⟩

theorem test_witness_TheResetDrawDoesNotShow : agreeOn Known.afterReset.parts 0#32 0xFFFFFFFF#32 := by
  unfold agreeOn
  decide

theorem test_witness_TheHostsRecordTracksTheFrame :
    Duty.tracks
      { built := true, toUse := .stored, fromUse := .stored, typeUse := .refused, sumFresh := true, verified := true,
        failed := false }
      0xC900C891#32 := by
  constructor <;> decide

/-- A host that builds a frame as R204 says keeps its duties and may send it; so does one that sends on a received frame
after a passing `VERIFY`; one that sends a word it neither built nor verified does not. -/
theorem test_witness_SafeRuns :
    safeRun Duty.afterReset ([Instr.init, .setTo 2#32, .setData 0xC8#16, .calcCsum] ++ .getRaw :: [.getTo])
        (frame 0x5A5A5A5A#32) = true ∧
      (dutyAfter Duty.afterReset [Instr.init, .setTo 2#32, .setData 0xC8#16, .calcCsum] (frame 0x5A5A5A5A#32)).built =
        true ∧
      (dutyAfter Duty.afterReset [Instr.setRaw 0xC900C891#32, .verify] (frame 0#32)).verified = true ∧
      safeRun Duty.afterReset ([Instr.setRaw 0xC900C891#32, .verify] ++ .getRaw :: []) (frame 0#32) = true ∧
      safeRun Duty.afterReset ([Instr.setRaw 0#32, .calcCsum] ++ .getRaw :: []) (frame 0#32) = false := by decide

/-- R184: a failed `VERIFY` bars the frame even after a `CALC_CSUM` and a passing `VERIFY`, and a built frame too; a
refused setter may be repeated, and the frame sent after that. -/
theorem test_safeRun_after_an_error :
    safeRun Duty.afterReset [.setRaw 0xC900C890#32, .verify, .calcCsum, .verify, .getTo] (frame 0#32) = false ∧
      safeRun Duty.afterReset [.init, .verify, .getTo] (frame 0#32) = false ∧
      safeRun Duty.afterReset [.init, .setTo 4#32, .setTo 2#32, .calcCsum, .getRaw] (frame 0#32) = true ∧
      safeRun Duty.afterReset [.init, .setTo 4#32, .calcCsum, .getRaw] (frame 0#32) = false := by decide

theorem test_witness_TheHostsDutyAfterAnError :
    (Duty.tracks { Duty.afterReset with built := true } 0x81000000#32 ∧ Duty.afterReset.toUse ≠ .stored ∧
        3 < (4#32).toNat ∧ (3#32).toNat ≤ 3) ∧
      wellFormed 0xC900C890#32 = false ∧ ∀ i ∈ [Instr.calcCsum, .verify], i ≠ .init ∧ ∀ raw, i ≠ .setRaw raw := by
  refine ⟨⟨?_, by decide⟩, by decide, by simp⟩
  constructor <;> decide

theorem test_witness_SafeSetters :
    Duty.tracks { Duty.afterReset with built := true } 0x81000000#32 ∧
      Duty.allows { Duty.afterReset with built := true } (.setFrom 3#32) = true ∧
        Duty.tracks { Duty.afterReset with verified := true } 0xC900C891#32 ∧
          Duty.allows { Duty.afterReset with verified := true } .getData = true := by
  refine ⟨?_, by decide, ?_, by decide⟩ <;> constructor <;> decide

theorem test_witness_StepKeepsTheResponseLegal :
    responseLegal (frame 0x81000000#32) ∧ ∃ t, step ((frame 0x81000000#32).withFetchWord 36 0xA00000000) = .next t :=
  ⟨(fun _ h => by cases h), _, rfl⟩

theorem test_witness_TheAssemblerReads :
    Command.wf ⟨.setData, some 0xFFFF⟩ = true ∧ Command.wf ⟨.verify, none⟩ = true ∧
      Command.wf ⟨.setData, some 0x10000⟩ = false := by decide

/-- The largest 32-bit operand in decimal and in hexadecimal: both numerals hold it, and both lines give its word. -/
theorem test_witness_TheAssemblerReads_numerals :
    (4294967295 < 10 ^ 10 ∧ 4294967295 < 16 ^ 8) ∧
      commandText spelling (decimalText 10) ⟨.setRaw, some 4294967295⟩ = "SET_RAW 4294967295".toList ∧
      commandText sourceName (hexText 8) ⟨.setRaw, some 4294967295⟩ = "SetRawData 0xFFFFFFFF".toList ∧
      assemble "SET_RAW 4294967295".toList = .command 0xCFFFFFFFF#36 := by decide

end Sys2Proof.Tests
end

/-! SUPPORT. Every command as two functions of the frame word before it: the frame word it leaves and its response.
`exec_eq` ties both to `exec`; what commands read, write and answer is then said about words, not about states. -/

namespace Sys2Proof.Machine

/-- The frame word after a field setter with shift `sh` (41_field_accessors.md R100, R101). -/
def setFieldFr (sh : Nat) (v f : Word) : Word :=
  if fieldInRange v then frameWord (headerOf f ||| fieldInsert v sh) (dataOf f) (checksumOf f) else f

/-- The response of a field setter, which does not depend on the frame (R100). -/
def setFieldAnswer (v : Word) : Response :=
  if fieldInRange v then successResponse 0#32 else errorResponse .invalidField

/-- The frame word a command leaves, from the word `f` before it. The commands of the last arm leave it. -/
def frAfter (i : Instr) (f : Word) : Word :=
  match i with
  | .init => frameWord 0x81#8 0x0000#16 0x00#8
  | .setTo v => setFieldFr Config.toShift v f
  | .setFrom v => setFieldFr Config.fromShift v f
  | .setType v => setFieldFr Config.typeShift v f
  | .setData d => frameWord (headerOf f) d (checksumOf f)
  | .calcCsum => frameWord (headerOf f) (dataOf f) (csum (headerOf f) (dataOf f))
  | .setRaw raw => raw
  | .getTo | .getFrom | .getType | .getData | .verify | .getRaw | .reserved13 | .reserved14 | .reserved15 => f

/-- The response of a command on the frame word `f`. -/
def answer (i : Instr) (f : Word) : Response :=
  match i with
  | .init | .setData _ | .calcCsum | .setRaw _ => successResponse 0#32
  | .setTo v | .setFrom v | .setType v => setFieldAnswer v
  | .getTo => successResponse (((headerOf f).extractLsb' Config.toShift 2).setWidth 32)
  | .getFrom => successResponse (((headerOf f).extractLsb' Config.fromShift 2).setWidth 32)
  | .getType => successResponse (((headerOf f).extractLsb' Config.typeShift 2).setWidth 32)
  | .getData => successResponse ((dataOf f).setWidth 32)
  | .verify => verifyResponse f
  | .getRaw => successResponse f
  | .reserved13 | .reserved14 | .reserved15 => errorResponse .illegalCommand

theorem setField_eq (sh : Nat) (v : Word) (s : State) :
    setField sh v s = .next { s with fr := setFieldFr sh v s.fr, resp := some (setFieldAnswer v) } := by
  obtain ⟨hv, h⟩ | ⟨hv, h⟩ := setField_cases sh v s
  all_goals
    rw [h]
    simp only [setFieldFr, setFieldAnswer, hv]
    rfl

/-- The whole effect of any command: `frAfter` on `FR`, `answer` on the response ports, nothing else. -/
theorem exec_eq (i : Instr) (s : State) :
    exec i s = .next { s with fr := frAfter i s.fr, resp := some (answer i s.fr) } := by
  cases i with
  | setTo v | setFrom v | setType v => exact setField_eq _ v s
  | getTo | getFrom | getType => exact getField_eq _ s
  | getRaw =>
    rw [exec, execGetRaw, wireWord_eq_frameWord, frameWord_state]
    rfl
  | setRaw raw => exact execSetRaw_eq raw s
  | _ => rfl

/-- `exec_eq` read backwards: the only next state a command can answer. -/
theorem exec_eq_next_iff {i : Instr} {s t : State} :
    exec i s = .next t ↔ t = { s with fr := frAfter i s.fr, resp := some (answer i s.fr) } := by
  rw [exec_eq, Host.Outcome.next.injEq, eq_comm]

end Sys2Proof.Machine

/-! SUPPORT. What commands read and write, over frame words (10_state.md R25). -/

namespace Sys2Proof.Machine

@[simp] theorem agreeOn_nil (f g : Word) : agreeOn [] f g := by simp [agreeOn]

@[simp] theorem agreeOn_cons (p : Part) (ps : List Part) (f g : Word) :
    agreeOn (p :: ps) f g ↔ f &&& p.mask = g &&& p.mask ∧ agreeOn ps f g := List.forall_mem_cons

/-- Words that agree on all three parts are equal. -/
theorem eq_of_agreeOn_all {f g : Word} (h : agreeOn [.header, .data, .checksum] f g) : f = g := by
  simp only [agreeOn_cons, and_headerMask_eq_iff, and_dataMask_eq_iff, and_checksumMask_eq_iff] at h
  obtain ⟨hh, hd, hc, -⟩ := h
  exact word_ext_parts hh hd hc

/-- A field setter keeps every part but the header, and the header too when its operand is out of range. -/
theorem setFieldFr_unwritten (sh : Nat) (v f : Word) {p : Part}
    (hp : p ∉ if fieldInRange v then [Part.header] else []) : setFieldFr sh v f &&& p.mask = f &&& p.mask := by
  by_cases hv : fieldInRange v = true
  · cases p with
    | header => simp [hv] at hp
    | data => simp [setFieldFr, hv, and_dataMask_eq_iff]
    | checksum => simp [setFieldFr, hv, and_checksumMask_eq_iff]
  · rw [setFieldFr, if_neg hv]

/-- A command keeps every part it does not write. -/
theorem frAfter_unwritten {i : Instr} {p : Part} (hp : p ∉ writes i) (f : Word) :
    frAfter i f &&& p.mask = f &&& p.mask := by
  cases i with
  | init | setRaw raw => cases p <;> simp [writes] at hp
  | setTo v | setFrom v | setType v => exact setFieldFr_unwritten _ v f hp
  | setData d =>
    cases p with
    | header => simp [frAfter, and_headerMask_eq_iff]
    | data => simp [writes] at hp
    | checksum => simp [frAfter, and_checksumMask_eq_iff]
  | calcCsum =>
    cases p with
    | header => simp [frAfter, and_headerMask_eq_iff]
    | data => simp [frAfter, and_dataMask_eq_iff]
    | checksum => simp [writes] at hp
  | _ => rfl

/-- What a field setter writes is made from its operand and the header. -/
theorem agreeOn_setFieldFr (sh : Nat) (v : Word) {f g : Word} (h : agreeOn [.header] f g) :
    agreeOn (if fieldInRange v then [.header] else []) (setFieldFr sh v f) (setFieldFr sh v g) := by
  by_cases hv : fieldInRange v = true
  · simp only [agreeOn_cons, and_headerMask_eq_iff, agreeOn_nil, and_true] at h
    simp [setFieldFr, hv, and_headerMask_eq_iff, h]
  · simp [hv]

/-- What a command writes is made from the parts it reads. -/
theorem agreeOn_frAfter {i : Instr} {f g : Word} (h : agreeOn (reads i) f g) :
    agreeOn (writes i) (frAfter i f) (frAfter i g) := by
  cases i with
  | init | setRaw raw => exact fun _ _ => rfl
  | setTo v | setFrom v | setType v => exact agreeOn_setFieldFr _ v h
  | setData d => simp [writes, frAfter, and_dataMask_eq_iff]
  | calcCsum =>
    simp only [reads, agreeOn_cons, and_headerMask_eq_iff, and_dataMask_eq_iff] at h
    obtain ⟨hh, hd, -⟩ := h
    simp [writes, frAfter, hh, hd]
  | _ => exact agreeOn_nil _ _

/-- The response of a command is made from the parts it reads. -/
theorem answer_congr {i : Instr} {f g : Word} (h : agreeOn (reads i) f g) : answer i f = answer i g := by
  cases i with
  | getTo | getFrom | getType =>
    simp only [reads, agreeOn_cons, and_headerMask_eq_iff] at h
    rw [answer, answer, h.1]
  | getData =>
    simp only [reads, agreeOn_cons, and_dataMask_eq_iff] at h
    rw [answer, answer, h.1]
  | verify | getRaw => rw [eq_of_agreeOn_all h]
  | _ => rfl

/-- The response of a command other than the six reading commands is the same on every frame. -/
theorem answer_of_not_reading {i : Instr}
    (hi : i ∉ [Instr.getTo, Instr.getFrom, Instr.getType, Instr.getData, Instr.verify, Instr.getRaw])
    (f g : Word) : answer i f = answer i g := by
  cases i with
  | getTo | getFrom | getType | getData | verify | getRaw => simp at hi
  | _ => rfl

/-- No cycle looks at the response of the cycle before it: a reset and an idle cycle drop it, a command overwrites
it. -/
theorem step_resp_irrelevant (s : State) (r : Option Response) : step { s with resp := r } = step s := by
  obtain ⟨e, h⟩ | ⟨e, h⟩ | ⟨w, e, h⟩ := step_cases s
  all_goals
    have e' : State.nextEvent { s with resp := r } = s.nextEvent := rfl
    rw [h, step, e', e]
  · rfl
  · rfl
  · exact (exec_eq _ _).trans (exec_eq _ _).symm

end Sys2Proof.Machine

/-! SUPPORT. Fields of fields: a range of bits taken from a range of bits, and the header from its five fields. -/

namespace Sys2Proof.Machine

theorem extractLsb'_extractLsb' {n : Nat} (x : BitVec n) {a b l m : Nat} (h : b + m ≤ l) :
    (x.extractLsb' a l).extractLsb' b m = x.extractLsb' (a + b) m := by
  apply BitVec.eq_of_getLsbD_eq
  intro k hk
  simp [-BitVec.getLsbD_eq_getElem, hk, show b + k < l by omega, Nat.add_assoc]

theorem ofBool_getLsbD_eq_extractLsb' {n : Nat} (x : BitVec n) (k : Nat) :
    BitVec.ofBool (x.getLsbD k) = x.extractLsb' k 1 := by
  apply BitVec.eq_of_getLsbD_eq
  intro j hj
  obtain rfl : j = 0 := by omega
  simp [-BitVec.getLsbD_eq_getElem, BitVec.getLsbD_ofBool]

/-- The two markers and the three ids are the whole header (10_state.md R22). -/
theorem header_eq_fields (h : Byte) :
    h = BitVec.ofBool (preOf h) ++ toOf h ++ fromOf h ++ typeOf h ++ BitVec.ofBool (postOf h) := by
  simp only [preOf, toOf, fromOf, typeOf, postOf, ofBool_getLsbD_eq_extractLsb',
    BitVec.extractLsb'_append_extractLsb'_eq_extractLsb', BitVec.extractLsb'_eq_self]

/-- The fields of the header of a frame word, as bits of the word (10_state.md R22). -/
theorem fields_headerOf (f : Word) :
    preOf (headerOf f) = f.getLsbD 31 ∧ toOf (headerOf f) = f.extractLsb' 29 2 ∧
      fromOf (headerOf f) = f.extractLsb' 27 2 ∧ typeOf (headerOf f) = f.extractLsb' 25 2 ∧
      postOf (headerOf f) = f.getLsbD 24 :=
  ⟨BitVec.getLsbD_extractLsb' .., extractLsb'_extractLsb' f (by decide), extractLsb'_extractLsb' f (by decide),
    extractLsb'_extractLsb' f (by decide), BitVec.getLsbD_extractLsb' ..⟩

/-- The four bytes of a frame word: header, high and low half of the data, checksum (20_memory.md R42). -/
theorem bytes_frameWord (h : Byte) (d : Half) (c : Byte) :
    (frameWord h d c).extractLsb' 24 8 = h ∧ (frameWord h d c).extractLsb' 16 8 = d.extractLsb' 8 8 ∧
      (frameWord h d c).extractLsb' 8 8 = d.extractLsb' 0 8 ∧ (frameWord h d c).extractLsb' 0 8 = c := by
  have data (b : Nat) (hb : b + 8 ≤ 16) : (frameWord h d c).extractLsb' (8 + b) 8 = d.extractLsb' b 8 := by
    rw [← extractLsb'_extractLsb' _ hb]
    exact congrArg (·.extractLsb' b 8) (dataOf_frameWord h d c)
  exact ⟨headerOf_frameWord h d c, data 8 (by decide), data 0 (by decide), checksumOf_frameWord h d c⟩

end Sys2Proof.Machine

/-! The statements of 10_state.md. -/

namespace Sys2Proof.Proofs

open Sys2Proof.Machine Sys2Proof.Safety

/-- Settles O46: every command leaves `frAfter`, which keeps the parts the command does not write. -/
theorem commandsChangeOnlyThePartsTheyWrite : Obligations.CommandsChangeOnlyThePartsTheyWrite := by
  intro i s t h
  obtain rfl := exec_eq_next_iff.1 h
  exact ⟨fun _ hp => frAfter_unwritten hp s.fr, rfl, rfl⟩

/-- Settles O47: `answer` and `frAfter` look only at the parts the command reads. -/
theorem commandsDependOnlyOnThePartsTheyRead : Obligations.CommandsDependOnlyOnThePartsTheyRead := by
  intro i s s' t t' hr h h'
  obtain rfl := exec_eq_next_iff.1 h
  obtain rfl := exec_eq_next_iff.1 h'
  exact ⟨congrArg some (answer_congr hr), agreeOn_frAfter hr⟩

/-- Settles O49: only the six reading commands have an `answer` that looks at the frame, and of the three kinds of
cycle those without a command drop the response. -/
theorem frameIsObservableOnlyThroughTheReadingCommands :
    Obligations.FrameIsObservableOnlyThroughTheReadingCommands := by
  refine ⟨fun i s t t' f hi h h' => ?_, fun s => ⟨_, exec_eq .getRaw s, rfl⟩, fun s t h idle => ?_⟩
  · obtain rfl := exec_eq_next_iff.1 h
    obtain rfl := exec_eq_next_iff.1 h'
    exact congrArg some (answer_of_not_reading hi _ _)
  · obtain ⟨-, e⟩ | ⟨-, e⟩ | ⟨w, hw, -⟩ := step_cases s
    · cases e.symm.trans h
      rfl
    · cases e.symm.trans h
      rfl
    · exact absurd hw (idle w)

/-- Settles O52, from the laws of the parts, the fields and the bytes of a frame word. -/
theorem partsOfTheFrameWord : Obligations.PartsOfTheFrameWord := by
  refine ⟨fun s => ?_, fun h d c => ?_, fun s h d c => ⟨rfl, rfl, rfl⟩⟩
  · obtain ⟨hpre, hto, hfrom, htype, hpost⟩ := fields_headerOf s.fr
    exact ⟨rfl, rfl, rfl, (frameWord_state s).symm, hpre, hto, hfrom, htype, hpost, header_eq_fields s.header⟩
  · refine ⟨rfl, wireWord_eq_frameWord h d c, ?_⟩
    rw [wireWord_eq_frameWord]
    exact bytes_frameWord h d c

/-- Settles O48: a command overwrites the response without looking at it, and so does every cycle. -/
theorem noCommandReadsAnEarlierResponse : Obligations.NoCommandReadsAnEarlierResponse :=
  fun s r => ⟨fun i => (exec_eq i _).trans (exec_eq i s).symm, step_resp_irrelevant s r⟩

/-- Settles O55: nothing is built, summed or verified in the record, so each of its promises is empty. -/
theorem theHostsRecordHoldsAfterReset : Obligations.TheHostsRecordHoldsAfterReset := by
  intro f
  constructor <;> simp [Duty.afterReset]

end Sys2Proof.Proofs

/-! SUPPORT. Presenting commands to the block (30_encoding.md R60): the canonical word is decoded as the command, and
the cycle that carries it executes the command. -/

namespace Sys2Proof.Machine

/-- The decoder's law for each opcode, on the canonical word of its command. -/
@[simp] theorem decode_encode (i : Instr) : decode (encode i) = i := by
  cases i with
  | setData d => rw [encode, decode_setData, operandD_setWidth]
  | _ => simp [encode]

theorem nextEvent_present_cons (i : Instr) (is : List Instr) (s : State) :
    (State.present (i :: is) s).nextEvent = .command (encode i) := cycleEvent_commandCycle (encode i)

/-- The first presented command executes, with the others still presented. -/
theorem step_present_cons (i : Instr) (is : List Instr) (s : State) :
    step (State.present (i :: is) s) = exec i (State.present is s) := by
  simp only [step, nextEvent_present_cons, decode_encode]
  rfl

/-- A command does not see what else is presented. -/
theorem exec_present {i : Instr} {s t : State} (h : exec i s = .next t) (is : List Instr) :
    exec i (State.present is s) = .next (State.present is t) := by
  obtain rfl := exec_eq_next_iff.1 h
  exact exec_eq i _

end Sys2Proof.Machine

/-! SUPPORT. A command executed a second time, on the frame word it left (20_memory.md R45). -/

namespace Sys2Proof.Machine

/-- A field setter ORs the same bits again. -/
theorem setFieldFr_setFieldFr (sh : Nat) (v f : Word) : setFieldFr sh v (setFieldFr sh v f) = setFieldFr sh v f := by
  by_cases hv : fieldInRange v = true
  · simp [setFieldFr, hv, BitVec.or_assoc]
  · simp [setFieldFr, hv]

theorem frAfter_frAfter (i : Instr) (f : Word) : frAfter i (frAfter i f) = frAfter i f := by
  cases i with
  | setTo v | setFrom v | setType v => exact setFieldFr_setFieldFr _ v f
  | setData d | calcCsum => simp [frAfter]
  | _ => rfl

/-- A command that writes answers without looking at the frame, and one that reads leaves it. -/
theorem answer_frAfter (i : Instr) (f : Word) : answer i (frAfter i f) = answer i f := by
  cases i <;> rfl

/-- The result of a command is a state on which the command has the same result. -/
theorem exec_exec {i : Instr} {s t : State} (h : exec i s = .next t) : exec i t = .next t := by
  obtain rfl := exec_eq_next_iff.1 h
  rw [exec_eq, frAfter_frAfter, answer_frAfter]

/-- The six reading commands leave the frame word. -/
theorem frAfter_of_reading {i : Instr}
    (hi : i ∈ [Instr.getTo, Instr.getFrom, Instr.getType, Instr.getData, Instr.verify, Instr.getRaw]) (f : Word) :
    frAfter i f = f := by
  cases i with
  | getTo | getFrom | getType | getData | verify | getRaw => rfl
  | _ => simp at hi

end Sys2Proof.Machine

/-! SUPPORT. The formulas of the rules for what a command writes (41_field_accessors.md R102 to R105,
42_checksum_engine.md R131), part by part of the frame word. -/

namespace Sys2Proof.Machine

theorem headerOf_or (f g : Word) : headerOf (f ||| g) = headerOf f ||| headerOf g := BitVec.extractLsb'_or

/-- A value of two bits shifted to its field in the frame word stands in the header as a setter inserts it. -/
theorem headerOf_shiftLeft {v : Word} (hv : v.toNat ≤ 3) (sh : Nat) :
    headerOf (v <<< (24 + sh)) = fieldInsert v sh := by
  have two_bits : v.toNat < 2 ^ 2 := by omega
  have high (j : Nat) (hj : ¬j < 2) : v.getLsbD j = false :=
    Nat.testBit_eq_false_of_lt (two_bits.trans_le (Nat.pow_le_pow_right (by decide) (not_lt.1 hj)))
  apply BitVec.eq_of_getLsbD_eq
  intro k hk
  simp only [headerOf, fieldInsert, BitVec.getLsbD_extractLsb', BitVec.getLsbD_shiftLeft, BitVec.getLsbD_setWidth,
    Nat.zero_add, hk, show 24 + k < 32 by omega, show k - sh < 8 by omega, show 24 + k - (24 + sh) = k - sh by omega,
    show 24 + k < 24 + sh ↔ k < sh by omega, decide_true, Bool.true_and]
  by_cases hj : k - sh < 2
  · simp only [hj, decide_true, Bool.true_and]
  · simp only [hj, high _ hj, decide_false, Bool.and_false]

/-- The data word shifted to its place in the frame word. -/
theorem dataOf_setWidth_shiftLeft (d : Half) : dataOf (d.setWidth 32 <<< 8) = d := by
  apply BitVec.eq_of_getLsbD_eq
  intro k hk
  simp [-BitVec.getLsbD_eq_getElem, dataOf, hk, show 8 + k < 32 by omega, show k < 32 by omega]

theorem checksumOf_setWidth (c : Byte) : checksumOf (c.setWidth 32) = c := by
  apply BitVec.eq_of_getLsbD_eq
  intro k hk
  simp [-BitVec.getLsbD_eq_getElem, checksumOf, hk, show k < 32 by omega]

/-- The checksum of a frame word as the sum of its three upper bytes. -/
theorem csum_parts (f : Word) :
    csum (headerOf f) (dataOf f) = f.extractLsb' 24 8 + f.extractLsb' 16 8 + f.extractLsb' 8 8 := by
  rw [csum, hi, lo, dataOf, extractLsb'_extractLsb' f (by decide), extractLsb'_extractLsb' f (by decide), headerOf]

/-- A field setter writes the header as the OR of the frame word with the shifted operand. -/
theorem agreeOn_setFieldFr_or (sh : Nat) (v f : Word) :
    agreeOn (if fieldInRange v then [.header] else []) (setFieldFr sh v f) (f ||| v <<< (24 + sh)) := by
  by_cases hv : fieldInRange v = true
  · simp [setFieldFr, hv, and_headerMask_eq_iff, headerOf_or, headerOf_shiftLeft ((fieldInRange_iff v).1 hv)]
  · simp [hv]

/-- What a command writes is what the formula of its rule says. -/
theorem agreeOn_wordWritten (i : Instr) (f : Word) : agreeOn (writes i) (frAfter i f) (Claims.wordWritten f i) := by
  cases i with
  | init | setRaw raw => exact fun _ _ => rfl
  | setTo v | setFrom v | setType v => exact agreeOn_setFieldFr_or _ v f
  | setData d => simp [writes, frAfter, Claims.wordWritten, and_dataMask_eq_iff, dataOf_setWidth_shiftLeft]
  | calcCsum =>
    simp [writes, frAfter, Claims.wordWritten, and_checksumMask_eq_iff, csum_parts, checksumOf_setWidth]
  | _ => exact agreeOn_nil _ _

end Sys2Proof.Machine

/-! SUPPORT. The most recent write of a part, along a list of commands (20_memory.md R47). -/

namespace Sys2Proof.Machine

open Sys2Proof.Claims

/-- Commands that do not write a part leave it. -/
theorem execAll_unwritten {is : List Instr} {s t : State} {p : Part} (h : execAll is s = .next t)
    (hp : ∀ i ∈ is, p ∉ writes i) : t.fr &&& p.mask = s.fr &&& p.mask := by
  induction is generalizing s with
  | nil =>
    cases h
    rfl
  | cons i is ih =>
    obtain ⟨hi, his⟩ := List.forall_mem_cons.1 hp
    rw [execAll_cons (exec_eq i s)] at h
    exact (ih h his).trans (frAfter_unwritten hi s.fr)

/-- The most recent write after a first command is the most recent write of the whole list; where the rest writes
nothing, it is that command's own write or the value before it. -/
theorem mostRecentWrite_cons {i : Instr} {is : List Instr} {s t : State} {p : Part} {x : Word}
    (hi : exec i s = .next t) (h : mostRecentWrite is t p x) : mostRecentWrite (i :: is) s p x := by
  obtain ⟨earlier, k, later, before, rfl, hk, hlater, hbefore, hx⟩ | ⟨his, hx⟩ := h
  · exact .inl ⟨i :: earlier, k, later, before, rfl, hk, hlater, (execAll_cons hi earlier).trans hbefore, hx⟩
  · obtain rfl := exec_eq_next_iff.1 hi
    by_cases hp : p ∈ writes i
    · exact .inl ⟨[], i, is, s, rfl, hp, his, rfl, hx.trans (agreeOn_wordWritten i s.fr p hp)⟩
    · exact .inr ⟨List.forall_mem_cons.2 ⟨hp, his⟩, hx.trans (frAfter_unwritten hp s.fr)⟩

/-- After commands, every part holds its most recent write. -/
theorem mostRecentWrite_execAll {is : List Instr} {s t : State} (h : execAll is s = .next t) (p : Part) :
    mostRecentWrite is s p (t.fr &&& p.mask) := by
  induction is generalizing s with
  | nil =>
    cases h
    exact .inr ⟨List.forall_mem_nil _, rfl⟩
  | cons i is ih =>
    rw [execAll_cons (exec_eq i s)] at h
    exact mostRecentWrite_cons (exec_eq i s) (ih h)

/-- A value is the most recent write of a part only if the part holds it after the commands. -/
theorem eq_of_mostRecentWrite {is : List Instr} {s t : State} {p : Part} {x : Word} (h : execAll is s = .next t)
    (hx : mostRecentWrite is s p x) : x = t.fr &&& p.mask := by
  obtain ⟨earlier, k, later, before, rfl, hk, hlater, hbefore, rfl⟩ | ⟨his, rfl⟩ := hx
  · rw [execAll_append hbefore, execAll_cons (exec_eq k before)] at h
    exact (agreeOn_wordWritten k before.fr p hk).symm.trans (execAll_unwritten h hlater).symm
  · exact (execAll_unwritten h his).symm

end Sys2Proof.Machine

/-! The statements of 20_memory.md. -/

namespace Sys2Proof.Proofs

open Sys2Proof.Machine

/-- Settles O11, by induction on the commands: each step executes the first command still presented. -/
theorem presentedCommandsRunInOrder : Obligations.PresentedCommandsRunInOrder := by
  intro is
  induction is with
  | nil => exact fun _ => rfl
  | cons i is ih =>
    intro s
    have hi := exec_eq i s
    rw [execAll_cons hi, ← ih]
    exact run_of_step core is.length ((step_present_cons i is s).trans (exec_present hi is))

/-- Settles O50: a part holds exactly its most recent write, and an answer is made from the parts the command reads. -/
theorem readsReturnTheMostRecentWrite : Obligations.ReadsReturnTheMostRecentWrite := by
  refine ⟨fun is s => ?_, fun j is s f hf => ?_, fun j is unwritten s => ?_⟩
  all_goals obtain ⟨t, h⟩ := execAll_next is s
  · exact ⟨t, h, mostRecentWrite_execAll h⟩
  · have agree : agreeOn (reads j) t.fr f := fun p hp => (eq_of_mostRecentWrite h (hf p hp)).symm
    exact ⟨t, _, _, h, exec_eq j t, exec_eq j _, congrArg some (answer_congr agree)⟩
  · have agree : agreeOn (reads j) t.fr s.fr := fun p hp => execAll_unwritten h fun i hi => unwritten i hi p hp
    exact ⟨t, _, _, h, exec_eq j t, exec_eq j s, congrArg some (answer_congr agree), agree⟩

/-- Settles O51: the second execution finds what the first one left, and the reading commands leave the frame. -/
theorem repeatingACommandChangesNothingMore : Obligations.RepeatingACommandChangesNothingMore :=
  ⟨fun i hi s => ⟨_, exec_eq i s, frAfter_of_reading hi s.fr, exec_exec (exec_eq i s)⟩,
    fun i s => ⟨_, exec_eq i s, exec_exec (exec_eq i s)⟩⟩

end Sys2Proof.Proofs

/-! SUPPORT. The canonical word of a command (30_encoding.md R62, R65, R71): its opcode and operand, and what decoding
and encoding again does to a word. -/

namespace Sys2Proof.Machine

/-- The opcode bits alone decide the decoded command's opcode. -/
@[simp] theorem opcode_decode_commandWord (op : Opcode) (arg : Word) : (decode (commandWord op arg)).opcode = op := by
  revert op
  apply opcode_cases
  simp [Instr.opcode]

/-- The opcode bits alone decide the decoded command's format. -/
theorem format_decode_commandWord (op : Opcode) (arg arg' : Word) :
    (decode (commandWord op arg)).format = (decode (commandWord op arg')).format := by
  revert op
  apply opcode_cases
  simp [Instr.format]

/-- Format D keeps bits 15-0 of the operand. -/
theorem setWidth_operandD (arg : Word) : (operandD arg).setWidth 32 = arg &&& Format.d.usedBits := by
  have mask : ∀ k < 32, Format.d.usedBits.getLsbD k = decide (k < 16) := by decide
  apply BitVec.eq_of_getLsbD_eq
  intro k hk
  simp [-BitVec.getLsbD_eq_getElem, operandD, mask k hk, hk, Bool.and_comm]

/-- Formats F and R use the whole operand. -/
theorem and_usedBits_f (arg : Word) : arg &&& Format.f.usedBits = arg := BitVec.and_allOnes

theorem and_usedBits_r (arg : Word) : arg &&& Format.r.usedBits = arg := BitVec.and_allOnes

/-- Formats N and reserved use no operand bit. -/
theorem and_usedBits_n (arg : Word) : arg &&& Format.n.usedBits = 0#32 := BitVec.and_zero

theorem and_usedBits_reserved (arg : Word) : arg &&& Format.reserved.usedBits = 0#32 := BitVec.and_zero

/-- Decoding and encoding again clears the operand bits the format ignores. -/
theorem encode_decode_commandWord (op : Opcode) (arg : Word) :
    encode (decode (commandWord op arg)) = commandWord op (arg &&& (decode (commandWord op arg)).format.usedBits) := by
  revert op
  apply opcode_cases
  simp only [decode_init, decode_setTo, decode_setFrom, decode_setType, decode_setData, decode_getTo, decode_getFrom,
    decode_getType, decode_getData, decode_calcCsum, decode_verify, decode_getRaw, decode_setRaw, decode_reserved13,
    decode_reserved14, decode_reserved15, encode, Instr.format, setWidth_operandD, and_usedBits_f, and_usedBits_r,
    and_usedBits_n, and_usedBits_reserved, and_self]

/-- Two words with one opcode that agree on the used operand bits have one canonical word, so they are one command. -/
theorem decode_commandWord_congr {op : Opcode} {arg arg' : Word}
    (h : arg &&& (decode (commandWord op arg)).format.usedBits =
      arg' &&& (decode (commandWord op arg)).format.usedBits) :
    decode (commandWord op arg) = decode (commandWord op arg') := by
  have canonical : encode (decode (commandWord op arg)) = encode (decode (commandWord op arg')) := by
    rw [encode_decode_commandWord, encode_decode_commandWord, h, format_decode_commandWord op arg arg']
  rw [← decode_encode (decode (commandWord op arg)), canonical, decode_encode]

/-- The operand of a canonical word lies in the bits the format uses. -/
theorem argOf_encode_and_usedBits (i : Instr) : argOf (encode i) &&& i.format.usedBits = argOf (encode i) := by
  have again : encode i = commandWord (opcodeOf (encode i)) (argOf (encode i) &&& i.format.usedBits) := by
    simpa using encode_decode_commandWord (opcodeOf (encode i)) (argOf (encode i))
  exact ((congrArg argOf again).trans (argOf_commandWord _ _)).symm

/-- The operand bits the format ignores are zero in a canonical word. -/
theorem argOf_encode_and_not_usedBits (i : Instr) : argOf (encode i) &&& ~~~i.format.usedBits = 0#32 := by
  rw [← argOf_encode_and_usedBits, BitVec.and_assoc, BitVec.and_not_self]
  exact BitVec.and_zero

end Sys2Proof.Machine

/-! SUPPORT. The rows of the opcode table (30_encoding.md R63): a row selects the words with its opcode. -/

namespace Sys2Proof.Machine

/-- The mask common to all rows keeps the opcode and clears the operand. -/
theorem commandWord_and_mask (op : Opcode) (arg : Word) :
    commandWord op arg &&& 0xF00000000#36 = commandWord op 0#32 := by
  change (op ++ arg) &&& (BitVec.allOnes 4 ++ 0#32) = op ++ 0#32
  rw [BitVec.and_append, BitVec.and_allOnes, BitVec.and_zero]

/-- Mask and pattern of every row, from its opcode. -/
theorem opcodeTable_mask_pat : ∀ r ∈ opcodeTable, r.mask = 0xF00000000#36 ∧ r.pat = commandWord r.op 0#32 := by decide

theorem selects_iff {r : OpcodeRow} (hr : r ∈ opcodeTable) (op : Opcode) (arg : Word) :
    r.selects (commandWord op arg) = true ↔ r.op = op := by
  obtain ⟨hmask, hpat⟩ := opcodeTable_mask_pat r hr
  rw [OpcodeRow.selects, hmask, hpat, commandWord_and_mask, beq_iff_eq]
  constructor
  · intro h
    simpa using (congrArg opcodeOf h).symm
  · rintro rfl
    rfl

/-- Every opcode has a row, whose format is that of the command with this opcode. -/
theorem exists_row (op : Opcode) :
    ∃ r ∈ opcodeTable, r.op = op ∧ (decode (commandWord op 0#32)).format = r.format := by
  revert op
  decide

theorem opcodeTable_op_injective : ∀ r ∈ opcodeTable, ∀ q ∈ opcodeTable, q.op = r.op → q = r := by decide

end Sys2Proof.Machine

/-! The statements of 30_encoding.md on command words. -/

namespace Sys2Proof.Proofs

open Sys2Proof.Machine

/-- Settles O2, by the decoder's law for each opcode. -/
theorem decodeOfEncodeIsTheCommand : Obligations.DecodeOfEncodeIsTheCommand := decode_encode

/-- Settles O3, opcode by opcode: each format's operand is put back under its mask. -/
theorem encodeOfDecodeClearsIgnoredBits : Obligations.EncodeOfDecodeClearsIgnoredBits := encode_decode_commandWord

/-- Settles O4: the row is the one with the word's opcode, since a row selects exactly the words with its opcode. -/
theorem everyWordSelectsOneRowAndRuns : Obligations.EveryWordSelectsOneRowAndRuns := by
  intro w
  obtain ⟨op, arg, rfl⟩ := exists_commandWord w
  obtain ⟨r, hr, hop, hformat⟩ := exists_row op
  refine ⟨⟨r, hr, (selects_iff hr op arg).2 hop, hop.trans (opcodeOf_commandWord op arg).symm, ?_, ?_, ?_⟩,
    fun s => ⟨_, exec_eq _ s⟩⟩
  · rw [opcode_decode_commandWord, hop]
  · rw [format_decode_commandWord op arg 0#32, hformat]
  · intro q hq hsel
    exact opcodeTable_op_injective r hr q hq (((selects_iff hq op arg).1 hsel).trans hop.symm)

/-- Settles O5: words that agree on the used bits decode to one command, and a canonical operand has no other bits. -/
theorem ignoredOperandBitsHaveNoEffect : Obligations.IgnoredOperandBitsHaveNoEffect := by
  refine ⟨fun op arg arg' h s => ?_, fun arg s => ?_, argOf_encode_and_not_usedBits⟩
  · rw [decode_commandWord_congr h]
  · rw [decode_setData]
    exact ⟨_, exec_eq _ s, rfl⟩

/-- Settles O1: the decoder run on the sixteen words. -/
theorem writtenOutWordsDecode : Obligations.WrittenOutWordsDecode := by
  unfold Obligations.WrittenOutWordsDecode
  decide

end Sys2Proof.Proofs

/-! SUPPORT. What the cycle the host drives next asks of the block, and the step it causes (30_encoding.md R60). -/

namespace Sys2Proof.Machine

/-- A cycle with a command and no reset asks for the command. -/
theorem cycleEvent_command {c : PortCycle} (hrst : c.rst = false) (hvalid : c.cmdValid = true) :
    cycleEvent c = .command (commandWord c.cmdOp c.cmdArg) := by simp [cycleEvent, hrst, hvalid]

/-- A cycle with neither asks for nothing. -/
theorem cycleEvent_idle {c : PortCycle} (hrst : c.rst = false) (hvalid : c.cmdValid = false) :
    cycleEvent c = .idle := by simp [cycleEvent, hrst, hvalid]

section

variable {s : State} {c : PortCycle} {rest : List PortCycle}

theorem nextEvent_of_inputs (h : s.inputs = c :: rest) : s.nextEvent = cycleEvent c := by
  rw [State.nextEvent, h]

theorem takeCycle_of_inputs (h : s.inputs = c :: rest) : s.takeCycle = { s with inputs := rest } := by
  rw [State.takeCycle, h, List.drop_one, List.tail_cons]

/-- A command cycle executes the command the ports carry. -/
theorem step_of_command (h : s.inputs = c :: rest) (hrst : c.rst = false) (hvalid : c.cmdValid = true) :
    step s = exec (decode (commandWord c.cmdOp c.cmdArg)) { s with inputs := rest } := by
  rw [step, nextEvent_of_inputs h, cycleEvent_command hrst hvalid, takeCycle_of_inputs h]

/-- A cycle without a command and without a reset drops the response and changes nothing else. -/
theorem step_of_idle (h : s.inputs = c :: rest) (hrst : c.rst = false) (hvalid : c.cmdValid = false) :
    step s = .next { s with inputs := rest, resp := none } := by
  rw [step, nextEvent_of_inputs h, cycleEvent_idle hrst hvalid, takeCycle_of_inputs h]
  rfl

end

/-- A cycle the host does not drive drops the response and changes nothing else. -/
theorem step_of_no_inputs {s : State} (h : s.inputs = []) : step s = .next { s with resp := none } := by
  cases s
  cases h
  rfl

/-- The word placed by the host is the one the next step decodes. -/
theorem step_withFetchWord (s : State) (w : CmdWord) : step (s.withFetchWord 36 w.toNat) = exec (decode w) s := by
  have word : BitVec.ofNat 36 (w.toNat % 2 ^ 36) = w := by
    rw [Nat.mod_eq_of_lt w.isLt, BitVec.ofNat_toNat, BitVec.setWidth_eq]
  have inputs : (s.withFetchWord 36 w.toNat).inputs = commandCycle w :: s.inputs := by rw [State.withFetchWord, word]
  rw [step_of_command inputs rfl rfl]
  exact congrArg (fun x => exec (decode x) s) (commandWord_fields w)

/-- Whatever the cycle is, the step answers a next state, since every command does. -/
theorem step_next (s : State) : ∃ t, step s = .next t := by
  obtain ⟨-, h⟩ | ⟨-, h⟩ | ⟨w, -, h⟩ := step_cases s
  · exact ⟨_, h⟩
  · exact ⟨_, h⟩
  · exact ⟨_, h.trans (exec_eq _ _)⟩

/-- The response after a step: none, or the answer of a command. -/
theorem resp_of_step {s t : State} (h : step s = .next t) :
    t.resp = none ∨ ∃ i, t.resp = some (answer i s.fr) := by
  obtain ⟨-, e⟩ | ⟨-, e⟩ | ⟨w, -, e⟩ := step_cases s
  · cases e.symm.trans h
    exact .inl rfl
  · cases e.symm.trans h
    exact .inl rfl
  · obtain rfl := exec_eq_next_iff.1 (e.symm.trans h)
    exact .inr ⟨decode w, rfl⟩

end Sys2Proof.Machine

/-! SUPPORT. The error mask of every answer, bit by bit (30_encoding.md R67), and the legal responses. -/

namespace Sys2Proof.Machine

open Sys2Proof.Safety

/-- The mask of an error has that error's bit and no other error's. -/
theorem errorMask_getLsbD (raised e : ErrorKind) : (errorMask raised).getLsbD (errorBit e) = decide (e = raised) := by
  cases raised <;> cases e <;> decide

theorem errorIf_getLsbD (failed : Bool) (raised e : ErrorKind) :
    (errorIf failed raised).getLsbD (errorBit e) = (decide (e = raised) && failed) := by
  cases failed
  · rw [Bool.and_false]
    exact BitVec.getLsbD_zero
  · rw [Bool.and_true]
    exact errorMask_getLsbD raised e

/-- The range check of a field setter, as the one error it can raise. -/
theorem setFieldAnswer_eq (v : Word) :
    setFieldAnswer v = ⟨fieldInRange v, errorIf (!fieldInRange v) .invalidField, 0#32⟩ := by
  cases h : fieldInRange v <;> simp [setFieldAnswer, h, successResponse, errorResponse, errorIf]

/-- Which errors a command raises on the frame word `f` (R67, 60_exceptions.md R171, R174 to R176). -/
def raises (i : Instr) (f : Word) (e : ErrorKind) : Bool :=
  match i with
  | .setTo v | .setFrom v | .setType v => decide (e = .invalidField) && !fieldInRange v
  | .verify => decide (e = .checksumMismatch) && !sumOk f || decide (e = .framingError) && !framingOk f
  | .reserved13 | .reserved14 | .reserved15 => decide (e = .illegalCommand)
  | .init | .setData _ | .getTo | .getFrom | .getType | .getData | .calcCsum | .getRaw | .setRaw _ => false

/-- Each bit of a command's `err` says whether the command raises that bit's error. -/
theorem answer_err_getLsbD (i : Instr) (f : Word) (e : ErrorKind) :
    (answer i f).err.getLsbD (errorBit e) = raises i f e := by
  cases i with
  | setTo v | setFrom v | setType v => rw [answer, setFieldAnswer_eq, errorIf_getLsbD, raises]
  | verify =>
    rw [answer, verifyResponse, verifyErr, BitVec.getLsbD_or, errorIf_getLsbD, errorIf_getLsbD, raises]
  | reserved13 | reserved14 | reserved15 => exact errorMask_getLsbD .illegalCommand e
  | _ => exact BitVec.getLsbD_zero

theorem raises_invalidField_iff (i : Instr) (f : Word) :
    raises i f .invalidField = true ↔ ∃ v : Word, 3 < v.toNat ∧ (i = .setTo v ∨ i = .setFrom v ∨ i = .setType v) := by
  have range (v : Word) : (!fieldInRange v) = true ↔ 3 < v.toNat := by
    rw [Bool.not_eq_true', ← Bool.not_eq_true, fieldInRange_iff, not_le]
  cases i <;> simp [raises, range]

/-- No command can lack a frame: the block has exactly one. -/
theorem raises_nullOrMissingFrame (i : Instr) (f : Word) : raises i f .nullOrMissingFrame = false := by
  cases i <;> simp [raises]

theorem raises_checksumMismatch_iff (i : Instr) (f : Word) :
    raises i f .checksumMismatch = true ↔ i = .verify ∧ checksumOf f ≠ csum (headerOf f) (dataOf f) := by
  cases i <;> simp [raises, sumOk]

theorem raises_framingError_iff (i : Instr) (f : Word) :
    raises i f .framingError = true ↔
      i = .verify ∧ ¬(preOf (headerOf f) = true ∧ postOf (headerOf f) = true) := by
  cases i <;> simp [raises, framingOk, not_and_or, -not_and]

theorem raises_illegalCommand_iff (i : Instr) (f : Word) :
    raises i f .illegalCommand = true ↔ i = .reserved13 ∨ i = .reserved14 ∨ i = .reserved15 := by
  cases i <;> simp [raises]

theorem legalResponse_success (rdata : Word) : legalResponse (successResponse rdata) := by
  simp [legalResponse, successResponse]

theorem legalResponse_setFieldAnswer (v : Word) : legalResponse (setFieldAnswer v) := by
  rw [setFieldAnswer_eq]
  cases fieldInRange v <;> simp [legalResponse, errorIf, errorMask_values]

theorem legalResponse_verifyResponse (f : Word) : legalResponse (verifyResponse f) := by
  simp only [legalResponse, verifyResponse, verifyErr_cases]
  cases sumOk f <;> cases framingOk f <;> simp

/-- Every command answers a legal response on every frame. -/
theorem legalResponse_answer (i : Instr) (f : Word) : legalResponse (answer i f) := by
  cases i with
  | setTo v | setFrom v | setType v => exact legalResponse_setFieldAnswer v
  | verify => exact legalResponse_verifyResponse f
  | reserved13 | reserved14 | reserved15 => simp [legalResponse, answer, errorResponse, errorMask_values]
  | _ => exact legalResponse_success _

/-- Of the six values of `err` only one has two bits. -/
theorem eq_0x0C_of_two_bits {err : ErrMask} (h : err ∈ [0x00#5, 0x01#5, 0x04#5, 0x08#5, 0x0C#5, 0x10#5]) {j k : Nat}
    (hjk : j ≠ k) (hj : err.getLsbD j = true) (hk : err.getLsbD k = true) : err = 0x0C#5 := by
  have finite : ∀ err ∈ [0x00#5, 0x01#5, 0x04#5, 0x08#5, 0x0C#5, 0x10#5], ∀ j < 5, ∀ k < 5, j ≠ k →
      err.getLsbD j = true → err.getLsbD k = true → err = 0x0C#5 := by decide
  exact finite err h j (BitVec.lt_of_getLsbD hj) k (BitVec.lt_of_getLsbD hk) hjk hj hk

/-- A field setter succeeds exactly when its operand is in range, and otherwise raises `InvalidField`. -/
theorem setFieldAnswer_ok_err (v : Word) :
    (setFieldAnswer v).ok = decide (v.toNat ≤ 3) ∧ ((setFieldAnswer v).ok = false → (setFieldAnswer v).err = 0x01#5) := by
  rw [setFieldAnswer_eq]
  refine ⟨Bool.eq_iff_iff.2 ((fieldInRange_iff v).trans decide_eq_true_iff.symm), fun hv => ?_⟩
  change fieldInRange v = false at hv
  rw [hv]
  rfl

/-- A field setter returns no value, whether it succeeds or fails. -/
theorem setFieldAnswer_rdata (v : Word) : (setFieldAnswer v).rdata = 0#32 := by rw [setFieldAnswer_eq]

/-- A value zero-extended into `rdata`: its own bits below, zeros above (30_encoding.md R68). -/
theorem setWidth_low_high {n m : Nat} (x : BitVec n) :
    (x.setWidth (n + m)).extractLsb' 0 n = x ∧ (x.setWidth (n + m)).extractLsb' n m = 0#m := by
  constructor
  · rw [BitVec.extractLsb'_setWidth_of_le (by omega), BitVec.extractLsb'_eq_self]
  · apply BitVec.eq_of_getLsbD_eq
    intro k hk
    simp [-BitVec.getLsbD_eq_getElem, hk]

end Sys2Proof.Machine

/-! The statements of 30_encoding.md on the step and on responses. -/

namespace Sys2Proof.Proofs

open Sys2Proof.Machine Sys2Proof.Safety

/-- Settles O6: a command cycle executes its command, and `withFetchWord` places such a cycle. -/
theorem stepRunsTheDecodedCommand : Obligations.StepRunsTheDecodedCommand := by
  refine ⟨fun s c rest i h hrst hvalid hi => ?_, step_withFetchWord⟩
  rw [step_of_command h hrst hvalid, hi]

/-- Settles O7: a cycle without a command, or one the host does not drive, only drops the response. -/
theorem idleCycleHoldsTheFrame : Obligations.IdleCycleHoldsTheFrame :=
  ⟨fun _ _ _ => step_of_idle, fun _ => step_of_no_inputs⟩

/-- Settles O10, by the three kinds of cycle. -/
theorem everyStepAnswersNext : Obligations.EveryStepAnswersNext := step_next

/-- Settles O41: every answer is legal, and its `ok` is read off the command. -/
theorem okSaysThatNoErrorWasRaised : Obligations.OkSaysThatNoErrorWasRaised := by
  intro i s
  obtain ⟨hok, -, -⟩ := legalResponse_answer i s.fr
  refine ⟨_, _, exec_eq i s, rfl, hok, ?_⟩
  cases i with
  | setTo v | setFrom v | setType v => exact setFieldAnswer_ok_err v
  | verify | reserved13 | reserved14 | reserved15 => rfl
  | _ => exact ⟨rfl, rfl⟩

/-- Settles O42: the bits of `err` are the errors the command raises, and two bits at once include one that only
`VERIFY` raises. -/
theorem errorBitsOfEveryResponse : Obligations.ErrorBitsOfEveryResponse := by
  intro i s t r h hr
  obtain rfl := exec_eq_next_iff.1 h
  obtain rfl := Option.some.inj hr
  have bit := answer_err_getLsbD i s.fr
  have mismatch := (Bool.eq_iff_iff.1 (bit .checksumMismatch)).trans (raises_checksumMismatch_iff i s.fr)
  obtain ⟨-, six, -⟩ := legalResponse_answer i s.fr
  refine ⟨?_, ?_, mismatch, ?_, ?_, six, fun j k hjk hj hk => ?_⟩
  · exact (Bool.eq_iff_iff.1 (bit .invalidField)).trans (raises_invalidField_iff i s.fr)
  · exact (bit .nullOrMissingFrame).trans (raises_nullOrMissingFrame i s.fr)
  · exact (Bool.eq_iff_iff.1 (bit .framingError)).trans (raises_framingError_iff i s.fr)
  · exact (Bool.eq_iff_iff.1 (bit .illegalCommand)).trans (raises_illegalCommand_iff i s.fr)
  · have value := eq_0x0C_of_two_bits six hjk hj hk
    have verify := mismatch.1 (by rw [value]; rfl)
    exact ⟨verify.1, value⟩

/-- Settles O43: the getters zero-extend what they return, `GET_RAW` returns the frame word, and no other command
returns a value. -/
theorem rdataOfEachCommand : Obligations.RdataOfEachCommand := by
  intro i s
  refine ⟨_, _, exec_eq i s, rfl, ?_⟩
  cases i with
  | getTo | getFrom | getType => exact setWidth_low_high (n := 2) (m := 30) _
  | getData => exact setWidth_low_high (n := 16) (m := 16) _
  | getRaw => exact (frameWord_state s).symm
  | setTo v | setFrom v | setType v => exact setFieldAnswer_rdata v
  | _ => rfl

/-- Settles O57: a step leaves no response or a command's answer, and every answer is legal. -/
theorem everyStepKeepsTheResponseLegal : Obligations.EveryStepKeepsTheResponseLegal := by
  intro s t _ h r hr
  obtain silent | ⟨i, answered⟩ := resp_of_step h
  · simp [silent] at hr
  · obtain rfl := Option.some.inj (answered.symm.trans hr)
    exact legalResponse_answer i s.fr

/-- Settles O58: there is no response right after reset. -/
theorem theResponseIsLegalAfterReset : Obligations.TheResponseIsLegalAfterReset := by
  intro r h
  cases h

/-- Settles O29: the reserved opcodes raise `IllegalCommand`, and no later command looks at that response. -/
theorem reservedOpcodesAreIllegalCommands : Obligations.ReservedOpcodesAreIllegalCommands := by
  intro op i hi arg s
  have reserved : decode (commandWord op arg) = i ∧ frAfter i s.fr = s.fr ∧ answer i s.fr = ⟨false, 0x10#5, 0#32⟩ := by
    simp only [List.mem_cons, Prod.mk.injEq, List.not_mem_nil, or_false] at hi
    obtain ⟨rfl, rfl⟩ | ⟨rfl, rfl⟩ | ⟨rfl, rfl⟩ := hi
    · exact ⟨decode_reserved13 arg, rfl, rfl⟩
    · exact ⟨decode_reserved14 arg, rfl, rfl⟩
    · exact ⟨decode_reserved15 arg, rfl, rfl⟩
  obtain ⟨decoded, frame, illegal⟩ := reserved
  have effect : exec i s = .next { s with resp := some ⟨false, 0x10#5, 0#32⟩ } := by rw [exec_eq, frame, illegal]
  refine ⟨decoded, effect, fun j t h => ?_⟩
  cases effect.symm.trans h
  exact (noCommandReadsAnEarlierResponse s _).1 j

end Sys2Proof.Proofs

/-! SUPPORT. A line of text with one command (30_encoding.md R71), read into its words and its command. -/

namespace Sys2Proof.Machine

/-- Characters that stand inside a word of a line: no blank, and no beginning of a comment. -/
def isPlain (l : List Char) : Prop := ∀ c ∈ l, isBlank c = false ∧ c ≠ ';'

/-- A word alone on its line. -/
theorem wordsFrom_word {l : List Char} (hl : isPlain l) (hne : l ≠ []) : wordsFrom [] l = [l] := by
  have h := wordsFrom_plain [] l [] fun c hc => (hl c hc).1
  rw [List.append_nil, List.append_nil] at h
  simp [h, wordsFrom, hne]

/-- A word set off from the rest of its line by a space. -/
theorem wordsFrom_word_space {l : List Char} (hl : isPlain l) (hne : l ≠ []) (rest : List Char) :
    wordsFrom [] (l ++ ' ' :: rest) = l :: wordsFrom [] rest := by
  rw [wordsFrom_plain [] l _ fun c hc => (hl c hc).1, List.append_nil]
  simp [wordsFrom, isBlank, hne]

/-- The names `name` gives are read back as their mnemonics. -/
def readsNames (name : Mnemonic → List Char) : Prop := ∀ k, lookupMnemonic (name k) = some k ∧ isPlain (name k)

/-- The text `numeral` gives for `v` is read back as `v`. -/
def readsNumber (numeral : Nat → List Char) (v : Nat) : Prop := parseNumber (numeral v) = some v ∧ isPlain (numeral v)

theorem readsNames_of_mem {name : Mnemonic → List Char} (h : name ∈ [spelling, sourceName]) : readsNames name := by
  intro k
  obtain ⟨spelled, sourced⟩ := names_plain k
  rcases List.mem_pair.1 h with rfl | rfl
  · exact ⟨lookupMnemonic_spelling k, spelled⟩
  · exact ⟨lookupMnemonic_sourceName k, sourced⟩

/-- Both ways of writing a number with enough digits are read back. -/
theorem readsNumber_of_digits {numeral : Nat → List Char} {k v : Nat}
    (h : (numeral = decimalText (k + 1) ∧ v < 10 ^ (k + 1)) ∨ (numeral = hexText (k + 1) ∧ v < 16 ^ (k + 1))) :
    readsNumber numeral v := by
  obtain ⟨decimal, hex⟩ := numerals_plain (k + 1) v
  obtain ⟨rfl, hv⟩ | ⟨rfl, hv⟩ := h
  · exact ⟨parseNumber_decimalText k v hv, decimal⟩
  · exact ⟨parseNumber_hexText k v hv, hex⟩

theorem readsNames.ne_nil {name : Mnemonic → List Char} (h : readsNames name) (k : Mnemonic) : name k ≠ [] := by
  intro e
  have found := (h k).1
  rw [e, show lookupMnemonic [] = none by decide] at found
  cases found

theorem readsNumber.ne_nil {numeral : Nat → List Char} {v : Nat} (h : readsNumber numeral v) : numeral v ≠ [] := by
  intro e
  have read := h.1
  rw [e, parseNumber] at read
  cases read

section

variable {name : Mnemonic → List Char} {numeral : Nat → List Char} {c : Command} (hname : readsNames name)
  (hnum : readsNumber numeral (c.operand.getD 0))

include hname hnum

/-- No text of a command begins a comment. -/
theorem commandText_ne_semicolon : ∀ ch ∈ commandText name numeral c, ch ≠ ';' := by
  obtain ⟨k, _ | v⟩ := c
  · exact fun ch hch => ((hname k).2 ch hch).2
  · intro ch hch
    obtain h | rfl | h : ch ∈ name k ∨ ch = ' ' ∨ ch ∈ numeral v := by simpa [commandText] using hch
    · exact ((hname k).2 ch h).2
    · decide
    · exact (hnum.2 ch h).2

/-- The words of a command's text are its name and its numeral, so they assemble as the command does. -/
theorem assembleWords_commandText : assembleWords (wordsFrom [] (commandText name numeral c)) = assembleCommand c := by
  obtain ⟨k, _ | v⟩ := c
  · have words : wordsFrom [] (commandText name numeral ⟨k, none⟩) = [name k] :=
      wordsFrom_word (hname k).2 (hname.ne_nil k)
    rw [words, assembleWords, (hname k).1]
  · have words : wordsFrom [] (commandText name numeral ⟨k, some v⟩) = [name k, numeral v] :=
      (wordsFrom_word_space (hname k).2 (hname.ne_nil k) _).trans
        (congrArg (name k :: ·) (wordsFrom_word hnum.2 hnum.ne_nil))
    have read : parseNumber (numeral v) = some v := hnum.1
    rw [words, assembleWords, (hname k).1, read]

/-- A command's text assembles as the command does, with or without a comment after it. -/
theorem assemble_commandText (comment : List Char) :
    assemble (commandText name numeral c) = assembleCommand c ∧
      assemble (commandText name numeral c ++ ';' :: comment) = assembleCommand c := by
  obtain ⟨bare, cut⟩ := stripComment_text _ comment (commandText_ne_semicolon hname hnum)
  rw [assemble, assemble, bare, cut]
  exact ⟨assembleWords_commandText hname hnum, assembleWords_commandText hname hnum⟩

end

/-- The decoder gives each mnemonic's word the mnemonic's format. -/
theorem format_decode_opcodeNumber (k : Mnemonic) (arg : Word) :
    (decode (commandWord (opcodeNumber k) arg)).format = k.format := by
  cases k <;> simp [opcodeNumber, Instr.format, Mnemonic.format]

/-- The operand of a well-formed command fits in the bits its format uses. -/
theorem wf_operand_and_usedBits {c : Command} (h : c.wf = true) :
    BitVec.ofNat 32 (c.operand.getD 0) &&& c.mnemonic.format.usedBits = BitVec.ofNat 32 (c.operand.getD 0) := by
  obtain ⟨k, _ | v⟩ := c
  · exact BitVec.zero_and
  · change BitVec.ofNat 32 v &&& k.format.usedBits = BitVec.ofNat 32 v
    simp only [Command.wf] at h
    cases hk : k.format with
    | n | reserved => simp [hk] at h
    | f => exact and_usedBits_f _
    | r => exact and_usedBits_r _
    | d =>
      have fits : v < 2 ^ 16 := by simpa [hk] using h
      rw [← BitVec.setWidth_ofNat_of_le_of_lt (by decide) fits, ← setWidth_operandD, operandD_setWidth]

/-- The word of a well-formed command is canonical. -/
theorem encode_decode_word {c : Command} (h : c.wf = true) : encode (decode (Command.word c)) = Command.word c := by
  rw [Command.word, encode_decode_commandWord, format_decode_opcodeNumber, wf_operand_and_usedBits h]

end Sys2Proof.Machine

/-! The statement of 30_encoding.md on the assembler. -/

namespace Sys2Proof.Proofs

open Sys2Proof.Machine

/-- Settles O59: a text is read back as its command, and the word of a well-formed command has the mnemonic's opcode,
its format and no ignored bit. -/
theorem theAssemblerReadsEveryCommandText : Obligations.TheAssemblerReadsEveryCommandText := by
  refine ⟨fun name hname numeral k c comment hnum => ?_, fun c hwf => ?_, fun c hwf => ?_, ?_, ?_⟩
  · obtain ⟨bare, commented⟩ :=
      assemble_commandText (readsNames_of_mem hname) (readsNumber_of_digits hnum) comment
    exact ⟨bare, commented.trans bare.symm⟩
  · exact ⟨opcode_decode_commandWord _ _, format_decode_opcodeNumber _ _, encode_decode_word hwf⟩
  · rw [assembleCommand, if_neg (by simp [hwf])]
  · decide
  · decide

end Sys2Proof.Proofs

/-! SUPPORT. The frame word `INIT` leaves (40_frame_init.md), and what `VERIFY` and `CALC_CSUM` make of a frame word
with its two markers set. -/

namespace Sys2Proof.Machine

theorem frAfter_init (f : Word) : frAfter .init f = 0x81000000#32 := by
  change frameWord 0x81#8 0x0000#16 0x00#8 = 0x81000000#32
  decide

theorem exec_init (s : State) :
    exec .init s = .next { s with fr := 0x81000000#32, resp := some (successResponse 0#32) } := by
  rw [exec_eq, frAfter_init, answer]

/-- Both markers are set in the fresh frame. -/
theorem framingOk_fresh : framingOk 0x81000000#32 = true := by decide

/-- The checksum of the fresh frame is 0, and its bytes add up to `0x81`. -/
theorem sumOk_fresh : sumOk 0x81000000#32 = false := by decide

/-- With both markers set and a wrong checksum, `VERIFY` reports `ChecksumMismatch` alone (42_checksum_engine.md R132). -/
theorem verifyResponse_of_wrong_sum {f : Word} (framing : framingOk f = true) (sum : sumOk f = false) :
    verifyResponse f = ⟨false, 0x04#5, 0#32⟩ := by
  simp only [verifyResponse, verifyErr_cases, framing, sum, Bool.and_false]

/-- `CALC_CSUM` makes the sum right and keeps the header, so only the markers decide whether the frame it leaves is
well formed (42_checksum_engine.md R131). -/
theorem wellFormed_frAfter_calcCsum (f : Word) : wellFormed (frAfter .calcCsum f) = framingOk f := by
  simp [wellFormed, framingOk, sumOk, frAfter]

end Sys2Proof.Machine

/-! The statements of 40_frame_init.md. -/

namespace Sys2Proof.Proofs

open Sys2Proof.Machine

/-- Settles O12: the frame word `INIT` leaves does not depend on the one before it. -/
theorem initCreatesAFreshFrame : Obligations.InitCreatesAFreshFrame :=
  fun arg s => ⟨decode_init arg, exec_init s⟩

/-- Settles O13: the parts are read off `0x81000000`; its markers are right and its sum is wrong, which `CALC_CSUM`
mends. -/
theorem frameAfterInit : Obligations.FrameAfterInit := by
  intro s t h
  have fresh : t.fr = 0x81000000#32 := by
    cases (exec_init s).symm.trans h
    rfl
  have header : t.header = 0x81#8 := by rw [State.header, fresh]; decide
  have data : t.data = 0#16 := by rw [State.data, fresh]; decide
  have checksum : t.checksum = 0#8 := by rw [State.checksum, fresh]; decide
  have fields : preOf 0x81#8 = true ∧ toOf 0x81#8 = 0#2 ∧ fromOf 0x81#8 = 0#2 ∧ typeOf 0x81#8 = 0#2 ∧
      postOf 0x81#8 = true := by decide
  obtain ⟨hpre, hto, hfrom, htype, hpost⟩ := fields
  have framing : framingOk t.fr = true := by rw [fresh, framingOk_fresh]
  have sum : sumOk t.fr = false := by rw [fresh, sumOk_fresh]
  rw [header]
  refine ⟨rfl, hpre, hto, hfrom, htype, hpost, data, checksum, ?_, ?_, _, exec_eq .calcCsum t, ?_⟩
  · rw [wellFormed, sum, Bool.and_false]
  · rw [exec_eq, frAfter, answer, verifyResponse_of_wrong_sum framing sum]
  · exact (wellFormed_frAfter_calcCsum t.fr).trans framing

end Sys2Proof.Proofs

/-! SUPPORT. What a field setter ORs into the header (41_field_accessors.md R101 to R104): its value for an operand in
range, and the bits and fields of a header with it. -/

namespace Sys2Proof.Machine

/-- An operand in range is its two low bits. -/
theorem setWidth_extractLsb'_of_le {v : Word} (hv : v.toNat ≤ 3) (n : Nat) :
    (v.extractLsb' 0 2).setWidth n = v.setWidth n := by
  have two_bits : v.toNat % 2 ^ 2 = v.toNat := Nat.mod_eq_of_lt (by omega)
  apply BitVec.eq_of_toNat_eq
  rw [BitVec.toNat_setWidth, BitVec.extractLsb'_toNat, Nat.shiftRight_zero, two_bits, BitVec.toNat_setWidth]

theorem fieldInsert_of_le {v : Word} (hv : v.toNat ≤ 3) (sh : Nat) : fieldInsert v sh = v.setWidth 8 <<< sh := by
  rw [fieldInsert, setWidth_extractLsb'_of_le hv]

/-- The shift as a multiplication. -/
theorem fieldInsert_eq_ofNat {v : Word} (hv : v.toNat ≤ 3) (sh : Nat) :
    fieldInsert v sh = BitVec.ofNat 8 (v.toNat * 2 ^ sh) := by
  apply BitVec.eq_of_toNat_eq
  rw [fieldInsert_of_le hv, BitVec.toNat_shiftLeft, BitVec.toNat_setWidth, BitVec.toNat_ofNat, Nat.shiftLeft_eq,
    Nat.mod_mul_mod]

theorem fieldInsert_getLsbD (v : Word) (sh k : Nat) :
    (fieldInsert v sh).getLsbD k =
      (decide (k < 8) && decide (sh ≤ k) && decide (k < sh + 2) && v.getLsbD (k - sh)) := by
  simp only [fieldInsert, BitVec.getLsbD_shiftLeft, BitVec.getLsbD_setWidth, BitVec.getLsbD_extractLsb', Nat.zero_add]
  by_cases h : k < 8 ∧ sh ≤ k
  · simp [-BitVec.getLsbD_eq_getElem, h, show k - sh < 8 by omega, show k - sh < 2 ↔ k < sh + 2 by omega]
  · have : ¬k < 8 ∨ ¬sh ≤ k := not_and_or.1 h
    obtain h | h := this <;> simp [h, not_le.1]

section

variable (h : Byte) (v : Word) {sh : Nat}

/-- A setter leaves the header bits outside its field. -/
theorem getLsbD_or_fieldInsert {k : Nat} (hk : k < sh ∨ sh + 2 ≤ k) :
    (h ||| fieldInsert v sh).getLsbD k = h.getLsbD k := by
  have outside : ¬sh ≤ k ∨ ¬k < sh + 2 := hk.imp not_le.2 not_lt.2
  obtain out | out := outside <;>
    simp [-BitVec.getLsbD_eq_getElem, fieldInsert_getLsbD, out]

/-- Two fields that do not overlap are set independently. -/
theorem extractLsb'_or_fieldInsert_of_disjoint {a n : Nat} (ha : a + n ≤ sh ∨ sh + 2 ≤ a) :
    (h ||| fieldInsert v sh).extractLsb' a n = h.extractLsb' a n := by
  apply BitVec.eq_of_getLsbD_eq
  intro k hk
  rw [BitVec.getLsbD_extractLsb', BitVec.getLsbD_extractLsb', getLsbD_or_fieldInsert h v (by omega)]

/-- A setter ORs its operand into its field. -/
theorem extractLsb'_or_fieldInsert (fits : sh + 2 ≤ 8) :
    (h ||| fieldInsert v sh).extractLsb' sh 2 = h.extractLsb' sh 2 ||| v.extractLsb' 0 2 := by
  rw [BitVec.extractLsb'_or]
  congr 1
  apply BitVec.eq_of_getLsbD_eq
  intro k hk
  simp [-BitVec.getLsbD_eq_getElem, fieldInsert_getLsbD, hk, show sh + k < 8 by omega]

/-- A setter changes only bits of its field, and only from 0 to 1 (R101). -/
theorem bit_set_of_getLsbD_or_fieldInsert_ne {k : Nat} (hk : (h ||| fieldInsert v sh).getLsbD k ≠ h.getLsbD k) :
    (k = sh ∨ k = sh + 1) ∧ h.getLsbD k = false ∧ (h ||| fieldInsert v sh).getLsbD k = true := by
  have inside : ¬(k < sh ∨ sh + 2 ≤ k) := fun out => hk (getLsbD_or_fieldInsert h v out)
  refine ⟨by omega, ?_⟩
  rw [BitVec.getLsbD_or] at hk ⊢
  cases old : h.getLsbD k <;> simp_all

end

end Sys2Proof.Machine

/-! SUPPORT. The setter and the getter of one header field, executed (41_field_accessors.md R100, R101, R106). -/

namespace Sys2Proof.Machine

/-- A field setter with its operand in range: the OR into the header, and success. -/
theorem setField_of_le {v : Word} (hv : v.toNat ≤ 3) (sh : Nat) (s : State) :
    setField sh v s = .next { s with fr := frameWord (s.header ||| fieldInsert v sh) s.data s.checksum,
                                     resp := some (successResponse 0#32) } := by
  rw [setField, if_pos ((fieldInRange_iff v).2 hv)]
  rfl

/-- A field setter with its operand out of range: `InvalidField`, and nothing written. -/
theorem setField_of_lt {v : Word} (hv : 3 < v.toNat) (sh : Nat) (s : State) :
    setField sh v s = .next { s with resp := some (errorResponse .invalidField) } := by
  rw [setField, if_neg (by rw [fieldInRange_iff]; omega)]
  rfl

/-- A getter's mask and shift of the header, as bits of the frame word. -/
theorem setWidth_fieldExtract_headerOf (f : Word) {sh : Nat} (fits : sh + 2 ≤ 8) :
    (fieldExtract (headerOf f) sh).setWidth 32 = (f.extractLsb' (24 + sh) 2).setWidth 32 := by
  rw [fieldExtract_eq, BitVec.setWidth_setWidth (by omega), headerOf, extractLsb'_extractLsb' f fits]

theorem headerOf_fresh : headerOf 0x81000000#32 = 0x81#8 := by decide

/-- `set` and `get` are the setter and the getter of the header field that begins at bit `sh`. -/
structure FieldCommands (set : Word → Instr) (get : Instr) (sh : Nat) : Prop where
  exec_set : ∀ (v : Word) (s : State), exec (set v) s = setField sh v s
  exec_get : ∀ s : State, exec get s = getField sh s
  /-- The field ends below the preamble bit. -/
  fits : sh + 2 < 8
  /-- The field is zero in a fresh header (40_frame_init.md R91). -/
  fresh : (0x81#8).extractLsb' sh 2 = 0#2

theorem toCommands : FieldCommands .setTo .getTo 5 := ⟨fun _ _ => rfl, fun _ => rfl, by decide, by decide⟩
theorem fromCommands : FieldCommands .setFrom .getFrom 3 := ⟨fun _ _ => rfl, fun _ => rfl, by decide, by decide⟩
theorem typeCommands : FieldCommands .setType .getType 1 := ⟨fun _ _ => rfl, fun _ => rfl, by decide, by decide⟩

/-- The setters and getters of the three header fields, with the bit where the field begins. -/
def fieldTable : List ((Word → Instr) × Instr × Nat) :=
  [(.setTo, .getTo, 5), (.setFrom, .getFrom, 3), (.setType, .getType, 1)]

theorem fieldCommands_of_mem : ∀ row ∈ fieldTable, FieldCommands row.1 row.2.1 row.2.2 := by
  simp only [fieldTable, List.forall_mem_cons]
  exact ⟨toCommands, fromCommands, typeCommands, List.forall_mem_nil _⟩

namespace FieldCommands

variable {set : Word → Instr} {get : Instr} {sh : Nat} (F : FieldCommands set get sh)

include F

/-- The header and its field after a successful setter; data and checksum stay. -/
theorem parts_of_exec_set {v : Word} (hv : v.toNat ≤ 3) {s t : State} (h : exec (set v) s = .next t) :
    t.header = s.header ||| fieldInsert v sh ∧ t.data = s.data ∧ t.checksum = s.checksum ∧
      t.header.extractLsb' sh 2 = s.header.extractLsb' sh 2 ||| v.extractLsb' 0 2 := by
  cases ((F.exec_set v s).trans (setField_of_le hv sh s)).symm.trans h
  have header := headerOf_frameWord (s.header ||| fieldInsert v sh) s.data s.checksum
  refine ⟨header, dataOf_frameWord .., checksumOf_frameWord .., ?_⟩
  exact (congrArg (·.extractLsb' sh 2) header).trans (extractLsb'_or_fieldInsert _ v F.fits.le)

theorem exec_get_eq (s : State) :
    exec get s = .next { s with resp := some ⟨true, 0#5, (s.header.extractLsb' sh 2).setWidth 32⟩ } :=
  (F.exec_get s).trans (getField_eq sh s)

/-- The getter of a field that holds the value `v`. -/
theorem exec_get_of_field {v : Word} (hv : v.toNat ≤ 3) {s : State}
    (field : s.header.extractLsb' sh 2 = v.extractLsb' 0 2) :
    exec get s = .next { s with resp := some ⟨true, 0#5, v⟩ } := by
  rw [F.exec_get_eq, field, setWidth_extractLsb'_of_le hv, BitVec.setWidth_eq]

/-- A successful setter, then the getter (R112). -/
theorem set_get {v : Word} (hv : v.toNat ≤ 3) (s : State) :
    ∃ t, execAll [set v, get] s = .next t ∧
      t.resp = some ⟨true, 0#5, (s.header.extractLsb' sh 2).setWidth 32 ||| v⟩ := by
  have hset := (F.exec_set v s).trans (setField_of_le hv sh s)
  obtain ⟨-, -, -, field⟩ := F.parts_of_exec_set hv hset
  refine ⟨_, (execAll_cons hset [get]).trans (execAll_cons (F.exec_get_eq _) []), ?_⟩
  dsimp only
  rw [field, BitVec.setWidth_or, setWidth_extractLsb'_of_le hv, BitVec.setWidth_eq]

/-- A setter with its operand out of range, then the getter (R112). -/
theorem failed_set_get {v : Word} (hv : 3 < v.toNat) (s : State) :
    ∃ t, execAll [set v, get] s = .next t ∧
      t.resp = some ⟨true, 0#5, (s.header.extractLsb' sh 2).setWidth 32⟩ :=
  ⟨_, (execAll_cons ((F.exec_set v s).trans (setField_of_lt hv sh s)) [get]).trans
    (execAll_cons (F.exec_get_eq _) []), rfl⟩

/-- On a fresh frame, the getter returns exactly what the setter was given (R111). -/
theorem init_set_get {v : Word} (hv : v.toNat ≤ 3) (s : State) :
    ∃ t, execAll [.init, set v, get] s = .next t ∧ t.resp = some ⟨true, 0#5, v⟩ := by
  rw [execAll_cons (exec_init s)]
  obtain ⟨t, h, answered⟩ := F.set_get hv { s with fr := 0x81000000#32, resp := some (successResponse 0#32) }
  refine ⟨t, h, answered.trans ?_⟩
  rw [State.header, headerOf_fresh, F.fresh, BitVec.setWidth_zero, BitVec.zero_or]

end FieldCommands

end Sys2Proof.Machine

/-! SUPPORT. The header along a list of commands without `INIT` and `SET_RAW`: bits are only ever ORed into it
(41_field_accessors.md R101), so the order of the commands does not matter. -/

namespace Sys2Proof.Machine

/-- The bits a field setter ORs into the header, which are none when its operand is out of range; no command but the
setters, `INIT` and `SET_RAW` touches the header. -/
def headerBits : Instr → Byte
  | .setTo v => if fieldInRange v then fieldInsert v Config.toShift else 0#8
  | .setFrom v => if fieldInRange v then fieldInsert v Config.fromShift else 0#8
  | .setType v => if fieldInRange v then fieldInsert v Config.typeShift else 0#8
  | _ => 0#8

/-- All the bits a list of commands ORs into the header. -/
def headerBitsAll (is : List Instr) : Byte := (is.map headerBits).foldr (· ||| ·) 0#8

theorem headerBitsAll_perm {is js : List Instr} (h : is.Perm js) : headerBitsAll is = headerBitsAll js :=
  (h.map headerBits).foldr_op_eq

theorem headerOf_setFieldFr (sh : Nat) (v f : Word) :
    headerOf (setFieldFr sh v f) = headerOf f ||| if fieldInRange v then fieldInsert v sh else 0#8 := by
  by_cases hv : fieldInRange v = true
  · rw [setFieldFr, if_pos hv, if_pos hv, headerOf_frameWord]
  · rw [setFieldFr, if_neg hv, if_neg hv, BitVec.or_zero]

/-- Every command but `INIT` and `SET_RAW` only ORs into the header. -/
theorem headerOf_frAfter {i : Instr} (hinit : i ≠ .init) (hraw : ∀ r, i ≠ .setRaw r) (f : Word) :
    headerOf (frAfter i f) = headerOf f ||| headerBits i := by
  cases i with
  | init => exact absurd rfl hinit
  | setRaw r => exact absurd rfl (hraw r)
  | setTo v | setFrom v | setType v => exact headerOf_setFieldFr _ v f
  | setData | calcCsum => exact (headerOf_frameWord ..).trans BitVec.or_zero.symm
  | _ => exact BitVec.or_zero.symm

/-- A command that takes a non-zero range of header bits to zero is `INIT` or `SET_RAW` (R112). -/
theorem init_or_setRaw_of_cleared {i : Instr} {f : Word} {sh n : Nat} (old : (headerOf f).extractLsb' sh n ≠ 0#n)
    (new : (headerOf (frAfter i f)).extractLsb' sh n = 0#n) : i = .init ∨ ∃ r, i = .setRaw r := by
  by_contra neither
  obtain ⟨hinit, hraw⟩ := not_or.1 neither
  rw [headerOf_frAfter hinit (fun r hr => hraw ⟨r, hr⟩), BitVec.extractLsb'_or, BitVec.or_eq_zero_iff] at new
  exact old new.1

/-- After any commands but these two, the header holds the OR of its old value and all their bits. -/
theorem header_execAll {is : List Instr} {s t : State} (h : execAll is s = .next t)
    (his : ∀ i ∈ is, i ≠ .init ∧ ∀ r, i ≠ .setRaw r) : t.header = s.header ||| headerBitsAll is := by
  induction is generalizing s with
  | nil =>
    cases h
    exact BitVec.or_zero.symm
  | cons i is ih =>
    obtain ⟨⟨hinit, hraw⟩, hrest⟩ := List.forall_mem_cons.1 his
    rw [execAll_cons (exec_eq i s)] at h
    have first : headerOf (frAfter i s.fr) = s.header ||| headerBits i := headerOf_frAfter hinit hraw s.fr
    rw [ih h hrest, State.header, first, BitVec.or_assoc]
    rfl

/-- After `INIT` and the three setters in any order, the header is the markers and the three values (R111). -/
theorem header_init_setters {a b c : Word} (ha : a.toNat ≤ 3) (hb : b.toNat ≤ 3) (hc : c.toNat ≤ 3) {p : List Instr}
    (hp : p.Perm [.setTo a, .setFrom b, .setType c]) {s t : State} (h : execAll (.init :: p) s = .next t) :
    t.header = 0x81#8 ||| fieldInsert a 5 ||| fieldInsert b 3 ||| fieldInsert c 1 := by
  have setters : ∀ i ∈ p, i ≠ .init ∧ ∀ r, i ≠ .setRaw r := by
    intro i hi
    have member := hp.mem_iff.1 hi
    simp only [List.mem_cons, List.not_mem_nil, or_false] at member
    obtain rfl | rfl | rfl := member <;> simp
  have bits : headerBitsAll p = fieldInsert a 5 ||| (fieldInsert b 3 ||| fieldInsert c 1) := by
    rw [headerBitsAll_perm hp]
    simp [headerBitsAll, headerBits, (fieldInRange_iff _).2, ha, hb, hc, Config.toShift, Config.fromShift,
      Config.typeShift]
  rw [execAll_cons (exec_init s)] at h
  rw [header_execAll h setters, bits, State.header, headerOf_fresh, BitVec.or_assoc, BitVec.or_assoc]

end Sys2Proof.Machine

/-! The statements of 41_field_accessors.md. -/

namespace Sys2Proof.Proofs

open Sys2Proof.Machine

/-- Settles O18: each bit claim is one about a header with a value inserted, for the setter's shift. -/
theorem fieldSettersOrAccumulate : Obligations.FieldSettersOrAccumulate := by
  intro set sh hset v w s t hv hw h
  have row : (set, sh) ∈ fieldTable.map fun row => (row.1, row.2.2) := hset
  obtain ⟨⟨set', get, sh'⟩, hrow, pair⟩ := List.mem_map.1 row
  obtain ⟨(rfl : set' = set), (rfl : sh' = sh)⟩ := Prod.mk.inj pair
  have F : FieldCommands set' get sh' := fieldCommands_of_mem _ hrow
  obtain ⟨header, data, checksum, field⟩ := F.parts_of_exec_set hv h
  have again := (F.exec_set w t).trans (setField_of_le hw sh' t)
  obtain ⟨-, -, -, field_again⟩ := F.parts_of_exec_set hw again
  refine ⟨header, data, checksum, field, fun k hk => ?_, _, again, ?_⟩
  · rw [header] at hk ⊢
    exact bit_set_of_getLsbD_or_fieldInsert_ne s.header v hk
  · rw [field_again, field]

/-- Settles O24: the getters leave the frame word, and `VERIFY` leaves them no more than a response. -/
theorem gettersValidateNothing : Obligations.GettersValidateNothing := by
  intro get field hget s
  obtain ⟨-, hto, hfrom, htype, -⟩ := fields_headerOf s.fr
  have value : frAfter get s.fr = s.fr ∧ answer get s.fr = successResponse (field s.fr) := by
    simp only [List.mem_cons, Prod.mk.injEq, List.not_mem_nil, or_false] at hget
    obtain ⟨rfl, rfl⟩ | ⟨rfl, rfl⟩ | ⟨rfl, rfl⟩ | ⟨rfl, rfl⟩ := hget
    · exact ⟨rfl, congrArg (fun x : BitVec 2 => successResponse (x.setWidth 32)) hto⟩
    · exact ⟨rfl, congrArg (fun x : BitVec 2 => successResponse (x.setWidth 32)) hfrom⟩
    · exact ⟨rfl, congrArg (fun x : BitVec 2 => successResponse (x.setWidth 32)) htype⟩
    · exact ⟨rfl, rfl⟩
  have effect : exec get s = .next { s with resp := some (successResponse (field s.fr)) } := by
    rw [exec_eq, value.1, value.2]
  exact ⟨effect, _, exec_eq .verify s, (noCommandReadsAnEarlierResponse s _).1 get⟩

/-- Settles O31: the header is the OR of what the three setters insert, in any order, and the three fields do not
overlap. -/
theorem setThenGetOnAFreshFrame : Obligations.SetThenGetOnAFreshFrame := by
  refine ⟨fun a b c ha hb hc p hp s => ?_, fun v hv set get hset s => ?_⟩
  · obtain ⟨t, h⟩ := execAll_next (.init :: p) s
    have header := header_init_setters ha hb hc hp h
    have hto : t.header.extractLsb' 5 2 = a.extractLsb' 0 2 := by
      rw [header, extractLsb'_or_fieldInsert_of_disjoint _ c (by decide),
        extractLsb'_or_fieldInsert_of_disjoint _ b (by decide), extractLsb'_or_fieldInsert _ a (by decide),
        toCommands.fresh, BitVec.zero_or]
    have hfrom : t.header.extractLsb' 3 2 = b.extractLsb' 0 2 := by
      rw [header, extractLsb'_or_fieldInsert_of_disjoint _ c (by decide), extractLsb'_or_fieldInsert _ b (by decide),
        extractLsb'_or_fieldInsert_of_disjoint _ a (by decide), fromCommands.fresh, BitVec.zero_or]
    have htype : t.header.extractLsb' 1 2 = c.extractLsb' 0 2 := by
      rw [header, extractLsb'_or_fieldInsert _ c (by decide), extractLsb'_or_fieldInsert_of_disjoint _ b (by decide),
        extractLsb'_or_fieldInsert_of_disjoint _ a (by decide), typeCommands.fresh, BitVec.zero_or]
    refine ⟨t, h, ?_, toCommands.exec_get_of_field ha hto, fromCommands.exec_get_of_field hb hfrom,
      typeCommands.exec_get_of_field hc htype⟩
    rw [header, fieldInsert_of_le ha, fieldInsert_of_le hb, fieldInsert_of_le hc]
  · have row : (set, get) ∈ fieldTable.map fun row => (row.1, row.2.1) := hset
    obtain ⟨⟨set', get', sh⟩, hrow, pair⟩ := List.mem_map.1 row
    obtain ⟨(rfl : set' = set), (rfl : get' = get)⟩ := Prod.mk.inj pair
    exact (fieldCommands_of_mem _ hrow).init_set_get hv s

/-- Settles O32: a setter and its getter, on a frame that need not be fresh, and the headers that only grow. -/
theorem setThenGetInGeneral : Obligations.SetThenGetInGeneral := by
  refine ⟨fun set get sh hset => ⟨fun v s => ?_, fun i s t h old new => ?_⟩, fun s => ?_⟩
  · have F : FieldCommands set get sh := fieldCommands_of_mem _ hset
    exact ⟨fun hv => F.set_get hv s, fun hv => F.failed_set_get hv s⟩
  · obtain rfl := exec_eq_next_iff.1 h
    exact init_or_setRaw_of_cleared old new
  · rw [execAll_cons (exec_init s), execAll_cons (exec_eq _ _)]
    obtain ⟨t, h, answered⟩ := toCommands.set_get (v := 2#32) (by decide)
      { s with fr := frAfter (.setTo 1#32) 0x81000000#32, resp := some (setFieldAnswer 1#32) }
    have value : ((headerOf (frAfter (.setTo 1#32) 0x81000000#32)).extractLsb' 5 2).setWidth 32 ||| 2#32 = 3#32 := by
      decide
    exact ⟨t, h, answered.trans (by rw [State.header, value])⟩

/-- Settles O14: success and failure of a field setter, with bit 7 above the field. -/
theorem setToOrsIntoBits6And5 : Obligations.SetToOrsIntoBits6And5 := by
  refine fun v s => ⟨decode_setTo v, fun hv => setField_of_lt hv 5 s, fun hv => ⟨_, rfl, ?_, ?_, ?_, ?_⟩⟩
  · exact congrArg (s.header ||| ·) (fieldInsert_eq_ofNat hv 5)
  · exact extractLsb'_or_fieldInsert s.header v (by decide)
  · exact getLsbD_or_fieldInsert s.header v (by decide)
  · exact setField_of_le hv 5 s

/-- Settles O15: success and failure of a field setter, with the two fields beside it. -/
theorem setFromOrsIntoBits4And3 : Obligations.SetFromOrsIntoBits4And3 := by
  refine fun v s => ⟨decode_setFrom v, fun hv => setField_of_lt hv 3 s, fun hv => ⟨_, rfl, ?_, ?_, ?_, ?_, ?_⟩⟩
  · exact congrArg (s.header ||| ·) (fieldInsert_eq_ofNat hv 3)
  · exact extractLsb'_or_fieldInsert s.header v (by decide)
  · exact extractLsb'_or_fieldInsert_of_disjoint s.header v (by decide)
  · exact extractLsb'_or_fieldInsert_of_disjoint s.header v (by decide)
  · exact setField_of_le hv 3 s

/-- Settles O16: success and failure of a field setter, with bit 0 below the field. -/
theorem setTypeOrsIntoBits2And1 : Obligations.SetTypeOrsIntoBits2And1 := by
  refine fun v s => ⟨decode_setType v, fun hv => setField_of_lt hv 1 s, fun hv => ⟨_, rfl, ?_, ?_, ?_, ?_⟩⟩
  · exact congrArg (s.header ||| ·) (fieldInsert_eq_ofNat hv 1)
  · exact extractLsb'_or_fieldInsert s.header v (by decide)
  · exact getLsbD_or_fieldInsert s.header v (by decide)
  · exact setField_of_le hv 1 s

/-- Settles O19: the operand is bits 15-0 of the argument, and the write keeps the other two parts. -/
theorem setDataAssignsTheDataWord : Obligations.SetDataAssignsTheDataWord :=
  fun arg s => ⟨decode_setData arg, fun d => exec_eq (.setData d) s⟩

/-- Settles O20: a getter's mask and shift, for the field at bit 5 of the header. -/
theorem getToReturnsBits6And5 : Obligations.GetToReturnsBits6And5 :=
  fun arg s => ⟨decode_getTo arg, toCommands.exec_get s, setWidth_fieldExtract_headerOf s.fr (sh := 5) (by decide)⟩

/-- Settles O21: a getter's mask and shift, for the field at bit 3 of the header. -/
theorem getFromReturnsBits4And3 : Obligations.GetFromReturnsBits4And3 :=
  fun arg s => ⟨decode_getFrom arg, fromCommands.exec_get s, setWidth_fieldExtract_headerOf s.fr (sh := 3) (by decide)⟩

/-- Settles O22: a getter's mask and shift, for the field at bit 1 of the header. -/
theorem getTypeReturnsBits2And1 : Obligations.GetTypeReturnsBits2And1 :=
  fun arg s => ⟨decode_getType arg, typeCommands.exec_get s, setWidth_fieldExtract_headerOf s.fr (sh := 1) (by decide)⟩

/-- Settles O23: the data is bits 23-8 of the frame word. -/
theorem getDataReturnsTheDataWord : Obligations.GetDataReturnsTheDataWord :=
  fun arg s => ⟨decode_getData arg, exec_eq .getData s, rfl⟩

end Sys2Proof.Proofs

/-! SUPPORT. The checksum as a sum of bytes (42_checksum_engine.md R130), and the two checks of `VERIFY` on a frame word
written as its parts or as its four bytes (R132). -/

namespace Sys2Proof.Machine

/-- With the data kept, the checksum tells every two headers apart. -/
theorem csum_left_inj {h h' : Byte} {d : Half} : csum h d = csum h' d ↔ h = h' :=
  (add_left_inj (lo d)).trans (add_left_inj (hi d))

/-- With the header kept, the checksum sees of the data only the sum of its two bytes. -/
theorem csum_right_eq_iff {h : Byte} {d d' : Half} : csum h d = csum h d' ↔ hi d + lo d = hi d' + lo d' := by
  rw [csum, csum, add_assoc, add_assoc, add_right_inj]

theorem sumOk_frameWord_iff (h : Byte) (d : Half) (c : Byte) : sumOk (frameWord h d c) = true ↔ c = csum h d := by
  rw [sumOk, headerOf_frameWord, dataOf_frameWord, checksumOf_frameWord, beq_iff_eq]

/-- The sum is right when byte 0 is the sum of bytes 3, 2 and 1 of the frame word. -/
theorem sumOk_iff_bytes (f : Word) :
    sumOk f = true ↔ f.extractLsb' 0 8 = f.extractLsb' 24 8 + f.extractLsb' 16 8 + f.extractLsb' 8 8 := by
  rw [sumOk, csum_parts, beq_iff_eq, checksumOf]

/-- The markers are bits 31 and 24 of the frame word. -/
theorem framingOk_iff_bits (f : Word) : framingOk f = true ↔ f.getLsbD 31 = true ∧ f.getLsbD 24 = true := by
  obtain ⟨hpre, -, -, -, hpost⟩ := fields_headerOf f
  rw [framingOk, Bool.and_eq_true, hpre, hpost]

/-- Four bytes in a row are a frame word whose data is the middle two. -/
theorem append_bytes_eq_frameWord (h a b c : Byte) : h ++ a ++ b ++ c = frameWord h (a ++ b) c := by
  rw [frameWord, BitVec.append_assoc (x₁ := h) (x₂ := a) (x₃ := b)]
  rfl

theorem wellFormed_append_bytes (h a b c : Byte) :
    wellFormed (h ++ a ++ b ++ c) = (h.getLsbD 7 && h.getLsbD 0 && c == h + a + b) := by
  have high : hi (a ++ b) = a := BitVec.extractLsb'_append_eq_left
  have low : lo (a ++ b) = b := BitVec.extractLsb'_append_eq_right
  rw [append_bytes_eq_frameWord, wellFormed, framingOk, sumOk, headerOf_frameWord, dataOf_frameWord,
    checksumOf_frameWord, csum, high, low]
  rfl

/-- What `VERIFY` sees of four bytes: the two markers, and how far the last byte is from the sum of the others. -/
theorem wellFormed_append_bytes_congr {h a b c h' a' b' c' : Byte} (pre : h'.getLsbD 7 = h.getLsbD 7)
    (post : h'.getLsbD 0 = h.getLsbD 0) (excess : c' - (h' + a' + b') = c - (h + a + b)) :
    wellFormed (h' ++ a' ++ b' ++ c') = wellFormed (h ++ a ++ b ++ c) := by
  have sum : (c' == h' + a' + b') = (c == h + a + b) := by
    rw [Bool.eq_iff_iff, beq_iff_eq, beq_iff_eq, ← sub_eq_zero, excess, sub_eq_zero]
  rw [wellFormed_append_bytes, wellFormed_append_bytes, pre, post, sum]

end Sys2Proof.Machine

/-! SUPPORT. Frame words that differ in one byte only (42_checksum_engine.md R135): the sum is right for at most one of
them, whichever byte it is. -/

namespace Sys2Proof.Machine

/-- A frame word is its four bytes. -/
theorem word_ext_bytes {f g : Word} (same : ∀ m < 4, f.extractLsb' (8 * m) 8 = g.extractLsb' (8 * m) 8) : f = g := by
  apply BitVec.eq_of_getLsbD_eq
  intro k hk
  have bit := congrArg (·.getLsbD (k % 8)) (same (k / 8) (by omega))
  simpa only [BitVec.getLsbD_extractLsb', Nat.mod_lt k (show 8 > 0 by decide), decide_true, Bool.true_and,
    Nat.div_add_mod] using bit

/-- Of the words that differ in byte `n` alone, one at most has the right sum. -/
theorem eq_of_sumOk_of_other_bytes {f g : Word} (hf : sumOk f = true) (hg : sumOk g = true) (n : Nat)
    (same : ∀ m < 4, m ≠ n → f.extractLsb' (8 * m) 8 = g.extractLsb' (8 * m) 8) : f = g := by
  rw [sumOk_iff_bytes] at hf hg
  refine word_ext_bytes fun m hm => ?_
  by_cases hmn : m = n
  · subst hmn
    match m with
    | 0 => rw [hf, hg, same 1 (by decide) (by decide), same 2 (by decide) (by decide), same 3 (by decide) (by decide)]
    | 1 =>
      rw [same 0 (by decide) (by decide), hg, same 2 (by decide) (by decide), same 3 (by decide) (by decide)] at hf
      exact (add_right_inj _).1 hf.symm
    | 2 =>
      rw [same 0 (by decide) (by decide), hg, same 1 (by decide) (by decide), same 3 (by decide) (by decide)] at hf
      exact (add_right_inj _).1 ((add_left_inj _).1 hf.symm)
    | 3 =>
      rw [same 0 (by decide) (by decide), hg, same 1 (by decide) (by decide), same 2 (by decide) (by decide)] at hf
      exact (add_left_inj _).1 ((add_left_inj _).1 hf.symm)
  · exact same m hm hmn

/-- Flipping bit `k` leaves every byte but the one the bit is in. -/
theorem extractLsb'_flip_of_ne (f : Word) {k m : Nat} (hm : m ≠ k / 8) :
    (f ^^^ (1#32 <<< k)).extractLsb' (8 * m) 8 = f.extractLsb' (8 * m) 8 := by
  apply BitVec.eq_of_getLsbD_eq
  intro j hj
  have unflipped : (1#32 <<< k).getLsbD (8 * m + j) = false := by
    rw [BitVec.getLsbD_shiftLeft, BitVec.getLsbD_one]
    by_cases below : 8 * m + j < k
    · simp [below]
    · simp [show ¬8 * m + j - k = 0 by omega]
  rw [BitVec.getLsbD_extractLsb', BitVec.getLsbD_xor, unflipped, Bool.xor_false, BitVec.getLsbD_extractLsb']

theorem flip_ne (f : Word) {k : Nat} (hk : k < 32) : f ^^^ (1#32 <<< k) ≠ f := by
  intro h
  have bit := congrArg (·.getLsbD k) h
  simp [-BitVec.getLsbD_eq_getElem, hk] at bit

end Sys2Proof.Machine

/-! SUPPORT. The well-formed words, counted (42_checksum_engine.md R135): the two markers and the checksum are
determined, and the six id bits of the header and the data are free. -/

namespace Sys2Proof.Machine

/-- The header with both markers set and the given ids between them (10_state.md R22). -/
def markedHeader (ids : BitVec 6) : Byte := 1#1 ++ ids ++ 1#1

theorem preOf_markedHeader (ids : BitVec 6) : preOf (markedHeader ids) = true := by
  rw [preOf, markedHeader, BitVec.getLsbD_append, BitVec.getLsbD_append]
  rfl

theorem postOf_markedHeader (ids : BitVec 6) : postOf (markedHeader ids) = true := by
  rw [postOf, markedHeader, BitVec.getLsbD_append]
  rfl

theorem ids_markedHeader (ids : BitVec 6) : (markedHeader ids).extractLsb' 1 6 = ids :=
  (BitVec.extractLsb'_append_eq_of_le (by decide)).trans BitVec.extractLsb'_append_eq_right

theorem markedHeader_ids {h : Byte} (pre : preOf h = true) (post : postOf h = true) :
    markedHeader (h.extractLsb' 1 6) = h := by
  have fields : h = BitVec.ofBool (preOf h) ++ h.extractLsb' 1 6 ++ BitVec.ofBool (postOf h) := by
    simp only [preOf, postOf, ofBool_getLsbD_eq_extractLsb',
      BitVec.extractLsb'_append_extractLsb'_eq_extractLsb', BitVec.extractLsb'_eq_self]
  rw [pre, post] at fields
  exact fields.symm

/-- The well-formed word with the given ids and data. -/
def passingWord (ids : BitVec 6) (d : Half) : Word := frameWord (markedHeader ids) d (csum (markedHeader ids) d)

theorem wellFormed_passingWord (ids : BitVec 6) (d : Half) : wellFormed (passingWord ids d) = true := by
  rw [wellFormed, Bool.and_eq_true, passingWord, framingOk, headerOf_frameWord, preOf_markedHeader,
    postOf_markedHeader, sumOk_frameWord_iff]
  exact ⟨rfl, rfl⟩

/-- A well-formed word is determined by its ids and its data. -/
theorem passingWord_of_wellFormed {f : Word} (hf : wellFormed f = true) :
    passingWord ((headerOf f).extractLsb' 1 6) (dataOf f) = f := by
  rw [wellFormed, framingOk, sumOk, Bool.and_eq_true, Bool.and_eq_true, beq_iff_eq] at hf
  obtain ⟨⟨pre, post⟩, sum⟩ := hf
  rw [passingWord, markedHeader_ids pre post, ← sum, frameWord_parts]

/-- Ids and data, and the well-formed words they determine. -/
def passingWordEquiv : { f : Word // wellFormed f = true } ≃ BitVec 6 × Half where
  toFun f := ((headerOf f.1).extractLsb' 1 6, dataOf f.1)
  invFun p := ⟨passingWord p.1 p.2, wellFormed_passingWord p.1 p.2⟩
  left_inv f := Subtype.ext (passingWord_of_wellFormed f.2)
  right_inv p := by simp only [passingWord, headerOf_frameWord, dataOf_frameWord, ids_markedHeader]

theorem natCard_bitVec (n : Nat) : Nat.card (BitVec n) = 2 ^ n :=
  Nat.card_eq_of_equiv_fin BitVec.equivFin.toEquiv

end Sys2Proof.Machine

/-! SUPPORT. Commands that write no part of `FR`, one after the other (10_state.md R25). -/

namespace Sys2Proof.Machine

theorem execAll_fr_of_writes_nothing {is : List Instr} {s t : State} (h : execAll is s = .next t)
    (his : ∀ i ∈ is, writes i = []) : t.fr = s.fr :=
  eq_of_agreeOn_all fun _ _ => execAll_unwritten h fun i hi => by simp [his i hi]

/-- A setter that changes a frame word whose sum is right makes the sum wrong: the new header is another one, and data
and checksum are kept (42_checksum_engine.md R134). -/
theorem sumOk_setFieldFr_of_ne {sh : Nat} {v f : Word} (hf : sumOk f = true) (changed : setFieldFr sh v f ≠ f) :
    sumOk (setFieldFr sh v f) = false := by
  rw [← Bool.not_eq_true]
  intro still
  rw [setFieldFr] at still changed
  by_cases hv : fieldInRange v = true
  · rw [if_pos hv] at still changed
    rw [sumOk, beq_iff_eq] at hf
    rw [sumOk_frameWord_iff, hf, csum_left_inj] at still
    rw [← still, frameWord_parts] at changed
    exact changed rfl
  · rw [if_neg hv] at changed
    exact changed rfl

/-- `SET_DATA` on a frame word whose sum is right keeps it right exactly when the new data has the old byte sum
(42_checksum_engine.md R134). -/
theorem sumOk_frAfter_setData_iff {f : Word} (hf : sumOk f = true) (d : Half) :
    sumOk (frAfter (.setData d) f) = true ↔ hi (dataOf f) + lo (dataOf f) = hi d + lo d := by
  rw [sumOk, beq_iff_eq] at hf
  rw [frAfter, sumOk_frameWord_iff, hf, csum_right_eq_iff]

theorem sumOk_frAfter_calcCsum (f : Word) : sumOk (frAfter .calcCsum f) = true :=
  (sumOk_frameWord_iff ..).2 rfl

end Sys2Proof.Machine

/-! The statements of 42_checksum_engine.md. -/

namespace Sys2Proof.Proofs

open Sys2Proof.Machine

/-- Settles O26: bits 2 and 3 of `err` are the two errors `VERIFY` raises, and its answer is legal. -/
theorem verifyReportsTheThreeChecks : Obligations.VerifyReportsTheThreeChecks := by
  intro arg s
  have bit := answer_err_getLsbD .verify s.fr
  obtain ⟨ok, -, -⟩ : Safety.legalResponse (verifyResponse s.fr) := legalResponse_verifyResponse s.fr
  have others : verifyErr s.fr &&& 0x13#5 = 0#5 := by
    rw [verifyErr_cases]
    cases sumOk s.fr <;> cases framingOk s.fr <;> rfl
  refine ⟨decode_verify arg, verifyErr s.fr, ?_, ?_, others, ?_, ok.symm, fun t => exec_exec⟩
  · exact (Bool.eq_iff_iff.1 (bit .checksumMismatch)).trans
      ((raises_checksumMismatch_iff .verify s.fr).trans (and_iff_right rfl))
  · exact (Bool.eq_iff_iff.1 (bit .framingError)).trans
      ((raises_framingError_iff .verify s.fr).trans (and_iff_right rfl))
  · have answered : verifyResponse s.fr = ⟨verifyErr s.fr == 0#5, verifyErr s.fr, 0#32⟩ :=
      congrArg (Response.mk · (verifyErr s.fr) 0#32) ok
    rw [exec_eq, frAfter, answer, answered]

/-- Settles O34: commands that write nothing leave the word `CALC_CSUM` left, a setter can only change its header, and
`SET_DATA` only its data. -/
theorem checksumStaysFreshUntilTheNextWrite : Obligations.ChecksumStaysFreshUntilTheNextWrite := by
  refine ⟨fun is his s => ?_, fun s t => exec_exec, fun s t u i v hi hs ht changed => ?_, fun s t u d hs ht => ?_⟩
  · obtain ⟨t, h⟩ := execAll_next is { s with fr := frAfter .calcCsum s.fr, resp := some (answer .calcCsum s.fr) }
    have kept : t.fr = frAfter .calcCsum s.fr := execAll_fr_of_writes_nothing h his
    have run : execAll (.calcCsum :: is) s = .next t := (execAll_cons (exec_eq .calcCsum s) is).trans h
    refine ⟨_, _, (execAll_append run _).trans (execAll_cons (exec_eq .verify t) []), rfl, ?_⟩
    exact (congrArg wellFormed kept).trans (wellFormed_frAfter_calcCsum s.fr)
  · obtain rfl := exec_eq_next_iff.1 hs
    obtain rfl := exec_eq_next_iff.1 ht
    have fresh := sumOk_frAfter_calcCsum s.fr
    simp only [List.mem_cons, List.not_mem_nil, or_false] at hi
    obtain rfl | rfl | rfl := hi <;> exact sumOk_setFieldFr_of_ne fresh changed
  · obtain rfl := exec_eq_next_iff.1 hs
    obtain rfl := exec_eq_next_iff.1 ht
    have kept : dataOf (frAfter .calcCsum s.fr) = s.data := dataOf_frameWord ..
    rw [← Bool.not_eq_true, sumOk_frAfter_setData_iff (sumOk_frAfter_calcCsum s.fr) d, kept]
    exact not_congr eq_comm

/-- Settles O37: 6 id bits and 16 data bits are free. -/
theorem exactlyTwoToThe22WordsPass : Obligations.ExactlyTwoToThe22WordsPass := by
  rw [Obligations.ExactlyTwoToThe22WordsPass, Nat.card_congr passingWordEquiv, Nat.card_prod, natCard_bitVec,
    natCard_bitVec, ← pow_add]

/-- Settles O38: the flipped word differs in one byte only, so its sum is wrong, even where a marker is right. -/
theorem everySingleBitChangeIsDetected : Obligations.EverySingleBitChangeIsDetected := by
  intro f k hk hf
  rw [wellFormed, Bool.and_eq_true] at hf
  have wrong : sumOk (f ^^^ (1#32 <<< k)) ≠ true := fun flipped =>
    flip_ne f hk (eq_of_sumOk_of_other_bytes flipped hf.2 (k / 8) fun _ _ hm => extractLsb'_flip_of_ne f hm)
  rw [wellFormed, Bool.eq_false_of_not_eq_true wrong, Bool.and_false]

/-- Settles O39: each of the changes keeps the markers and the distance of the checksum byte from the sum. -/
theorem changesThatAreNeverDetected : Obligations.ChangesThatAreNeverDetected := by
  refine ⟨fun f => ?_, fun h a b c k => ⟨?_, ?_, ?_, ?_, fun pre post => ⟨?_, ?_, ?_⟩⟩⟩
  · rw [wellFormed, Bool.and_eq_true, framingOk_iff_bits, sumOk_iff_bytes, and_assoc]
  · exact wellFormed_append_bytes_congr rfl rfl (by abel)
  · exact wellFormed_append_bytes_congr rfl rfl (by abel)
  · exact wellFormed_append_bytes_congr rfl rfl (by abel)
  · exact wellFormed_append_bytes_congr rfl rfl (by abel)
  · exact wellFormed_append_bytes_congr pre post (by abel)
  · exact wellFormed_append_bytes_congr pre post (by abel)
  · exact wellFormed_append_bytes_congr pre post (by abel)

/-- Settles O25: the stored checksum is `csum` of the header and the data, written out. -/
theorem calcCsumStoresTheChecksum : Obligations.CalcCsumStoresTheChecksum :=
  fun arg s => ⟨decode_calcCsum arg, exec_eq .calcCsum s⟩

/-- Settles O33: addition of bit vectors is addition modulo 256, which is commutative and associative. -/
theorem checksumIsAdditionModulo256 : Obligations.ChecksumIsAdditionModulo256 := by
  refine ⟨fun h d => ⟨rfl, ?_, ?_, ?_⟩, by decide, by decide⟩
  · rw [csum, BitVec.toNat_add, BitVec.toNat_add, Nat.mod_add_mod]
    rfl
  · exact add_comm _ _
  · rw [csum, add_assoc, add_comm]
    rfl

end Sys2Proof.Proofs

/-! SUPPORT. The raw codec on frame words (43_raw_codec.md R150, R151): the wire word `GET_RAW` packs is `FR`, and the word
`SET_RAW` unpacks becomes `FR`. -/

namespace Sys2Proof.Machine

theorem wireWord_state (s : State) : wireWord s.header s.data s.checksum = s.fr :=
  (wireWord_eq_frameWord ..).trans (frameWord_state s)

theorem exec_getRaw (s : State) : exec .getRaw s = .next { s with resp := some (successResponse s.fr) } :=
  exec_eq .getRaw s

theorem exec_setRaw (r : Word) (s : State) :
    exec (.setRaw r) s = .next { s with fr := r, resp := some (successResponse 0#32) } := exec_eq (.setRaw r) s

end Sys2Proof.Machine

/-! The statements of 43_raw_codec.md. -/

namespace Sys2Proof.Proofs

open Sys2Proof.Machine

/-- Settles O30: `GET_RAW` answers `FR` whole, and `SET_RAW` writes it whole. -/
theorem rawCodecRoundTrips : Obligations.RawCodecRoundTrips := by
  refine ⟨fun r s => ?_, fun s t a h answered => ?_⟩
  · exact ⟨_, (execAll_cons (exec_setRaw r s) [.getRaw]).trans (execAll_cons (exec_getRaw _) []), rfl⟩
  · cases (exec_getRaw s).symm.trans h
    cases answered
    exact ⟨_, exec_setRaw s.fr _, rfl⟩

/-- Settles O27: the three parts, packed, are the word `GET_RAW` answers. -/
theorem getRawPacksTheFrame : Obligations.GetRawPacksTheFrame := by
  intro arg s
  have packed : s.checksum.setWidth 32 ||| (s.data.setWidth 32 <<< 8) ||| (s.header.setWidth 32 <<< 24) = s.fr :=
    wireWord_state s
  refine ⟨decode_getRaw arg, ?_, packed⟩
  rw [packed]
  exact exec_getRaw s

/-- Settles O28: the parts of `FR` are then those of the word written. -/
theorem setRawUnpacksTheWord : Obligations.SetRawUnpacksTheWord := by
  refine fun raw s => ⟨decode_setRaw raw, exec_setRaw raw s, fun t h => ?_⟩
  cases (exec_setRaw raw s).symm.trans h
  exact ⟨rfl, rfl, rfl⟩

end Sys2Proof.Proofs

/-! SUPPORT. Success and failure of a command, on the frame word before it (60_exceptions.md R171, R172, R177). -/

namespace Sys2Proof.Machine

open Sys2Proof.Claims Sys2Proof.Safety

/-- A legal response with a bit of `err` set reports failure. -/
theorem not_ok_of_err_bit {r : Response} (legal : legalResponse r) {k : Nat} (bit : r.err.getLsbD k = true) :
    r.ok = false := by
  obtain ⟨ok, -, -⟩ := legal
  rw [ok, beq_eq_false_iff_ne]
  intro zero
  rw [zero, BitVec.getLsbD_zero] at bit
  cases bit

/-- A legal response that reports failure has some bit of `err` set. -/
theorem err_ne_zero_of_not_ok {r : Response} (legal : legalResponse r) (failed : r.ok = false) : r.err ≠ 0#5 := by
  obtain ⟨ok, -, -⟩ := legal
  rwa [ok, beq_eq_false_iff_ne] at failed

theorem setFieldFr_of_not_ok {v : Word} (failed : (setFieldAnswer v).ok = false) (sh : Nat) (f : Word) :
    setFieldFr sh v f = f := by
  rw [setFieldAnswer_eq] at failed
  exact if_neg (Bool.not_eq_true _ ▸ failed)

/-- A failing command writes nothing: a setter out of range, a `VERIFY`, or a reserved opcode. -/
theorem frAfter_of_not_ok {i : Instr} {f : Word} (failed : (answer i f).ok = false) : frAfter i f = f := by
  cases i with
  | setTo v | setFrom v | setType v => exact setFieldFr_of_not_ok failed _ f
  | verify | reserved13 | reserved14 | reserved15 => rfl
  | _ => cases failed

theorem setFieldAnswer_mem (v : Word) :
    ((setFieldAnswer v).ok, (setFieldAnswer v).err) ∈ [(true, 0x00#5), (false, 0x01#5)] := by
  rw [setFieldAnswer_eq]
  cases fieldInRange v <;> decide

theorem verifyResponse_mem (f : Word) :
    ((verifyResponse f).ok, (verifyResponse f).err) ∈ possibleAnswers .verify := by
  rw [verifyResponse, verifyErr_cases]
  cases sumOk f <;> cases framingOk f <;> decide

/-- Every answer of a command is in the list of R177. -/
theorem answer_mem_possibleAnswers (i : Instr) (f : Word) :
    ((answer i f).ok, (answer i f).err) ∈ possibleAnswers i := by
  cases i with
  | setTo v | setFrom v | setType v => exact setFieldAnswer_mem v
  | verify => exact verifyResponse_mem f
  | _ => exact List.mem_singleton.2 rfl

/-- A frame word for each answer of `VERIFY`: a well-formed one, the fresh one, and two without markers, of which one
has the right sum. -/
theorem exists_verifyResponse :
    ∀ a ∈ possibleAnswers .verify, ∃ f : Word, ((verifyResponse f).ok, (verifyResponse f).err) = a := by
  simp only [possibleAnswers, List.forall_mem_cons]
  exact ⟨⟨0xC900C891#32, by decide⟩, ⟨0x81000000#32, by decide⟩, ⟨0x00000000#32, by decide⟩,
    ⟨0x00000001#32, by decide⟩, List.forall_mem_nil _⟩

/-- An operand for each answer of a field setter: one in range and one above. -/
theorem exists_setFieldAnswer :
    ∀ a ∈ [(true, 0x00#5), (false, 0x01#5)], ∃ v : Word, ((setFieldAnswer v).ok, (setFieldAnswer v).err) = a := by
  simp only [List.forall_mem_cons]
  exact ⟨⟨3#32, by decide⟩, ⟨4#32, by decide⟩, List.forall_mem_nil _⟩

/-- Each of the three field setters is the setter of a row of `fieldTable`. -/
theorem fieldCommands_of_setter {set : Word → Instr} (h : set ∈ [Instr.setTo, Instr.setFrom, Instr.setType]) :
    ∃ get sh, FieldCommands set get sh := by
  have row : set ∈ fieldTable.map fun row => row.1 := h
  obtain ⟨⟨_, get, sh⟩, hrow, rfl⟩ := List.mem_map.1 row
  exact ⟨get, sh, fieldCommands_of_mem _ hrow⟩

end Sys2Proof.Machine

/-! SUPPORT. The host's record along a run (60_exceptions.md R184): what a refused setter and a failed `VERIFY` leave in
it, and how long. -/

namespace Sys2Proof.Safety

open Sys2Proof.Machine

/-- One command of a safe run: it is allowed, and the rest is safe with the record its answer leaves. -/
theorem safeRun_cons {i : Instr} {s t : State} (h : exec i s = .next t) (d : Duty) (is : List Instr) :
    safeRun d (i :: is) s = (d.allows i && safeRun (d.after i (answeredOk t)) is t) := by
  rw [safeRun, h]

/-- `use` is what the record remembers of `set`, the setter of the header field that begins at bit `sh`. -/
structure FieldRecord (set : Word → Instr) (use : Duty → FieldUse) (sh : Nat) : Prop where
  allows_set : ∀ (d : Duty) (v : Word), d.allows (set v) = (d.built && use d != .stored)
  built_refused : ∀ (d : Duty) (v : Word), (d.after (set v) false).built = d.built
  use_refused : ∀ (d : Duty) (v : Word), use (d.after (set v) false) = (use d).refuse
  use_calcCsum : ∀ (d : Duty) (ok : Bool), use (d.after .calcCsum ok) = use d
  anyRefused : ∀ d : Duty, use d = .refused → d.anyRefused = true
  zero : ∀ (d : Duty) (f : Word), d.tracks f → d.built = true → use d ≠ .stored → (headerOf f).extractLsb' sh 2 = 0#2

theorem toRecord : FieldRecord .setTo Duty.toUse 5 :=
  ⟨fun _ _ => rfl, fun _ _ => rfl, fun _ _ => rfl, fun _ _ => rfl, fun d h => by simp [Duty.anyRefused, h],
    fun _ _ tracks => tracks.toZero⟩

theorem fromRecord : FieldRecord .setFrom Duty.fromUse 3 :=
  ⟨fun _ _ => rfl, fun _ _ => rfl, fun _ _ => rfl, fun _ _ => rfl, fun d h => by simp [Duty.anyRefused, h],
    fun _ _ tracks => tracks.fromZero⟩

theorem typeRecord : FieldRecord .setType Duty.typeUse 1 :=
  ⟨fun _ _ => rfl, fun _ _ => rfl, fun _ _ => rfl, fun _ _ => rfl, fun d h => by simp [Duty.anyRefused, h],
    fun _ _ tracks => tracks.typeZero⟩

/-- Each row of setter, record and field is one header field. -/
theorem fieldRecord_of_mem {set : Word → Instr} {use : Duty → FieldUse} {field : Byte → BitVec 2}
    (h : (set, use, field) ∈ [(Instr.setTo, Duty.toUse, toOf), (Instr.setFrom, Duty.fromUse, fromOf),
      (Instr.setType, Duty.typeUse, typeOf)]) :
    ∃ get sh, FieldCommands set get sh ∧ FieldRecord set use sh ∧ ∀ x, field x = x.extractLsb' sh 2 := by
  simp only [List.mem_cons, Prod.mk.injEq, List.not_mem_nil, or_false] at h
  obtain ⟨rfl, rfl, rfl⟩ | ⟨rfl, rfl, rfl⟩ | ⟨rfl, rfl, rfl⟩ := h
  · exact ⟨_, _, toCommands, toRecord, fun _ => rfl⟩
  · exact ⟨_, _, fromCommands, fromRecord, fun _ => rfl⟩
  · exact ⟨_, _, typeCommands, typeRecord, fun _ => rfl⟩

/-- A field in which nothing is stored counts as refused after a failed setter. -/
theorem FieldUse.refuse_of_ne_stored {u : FieldUse} (h : u ≠ .stored) : u.refuse = .refused := by
  cases u with
  | unset | refused => rfl
  | stored => exact absurd rfl h

/-- While a setter is left refused, the frame must not be sent (R215). -/
theorem allows_getRaw_of_anyRefused {d : Duty} (h : d.anyRefused = true) : d.allows .getRaw = false := by
  simp [Duty.allows, h]

namespace FieldRecord

variable {set : Word → Instr} {use : Duty → FieldUse} {get : Instr} {sh : Nat} {d : Duty} {v : Word}
  (R : FieldRecord set use sh)

include R

/-- The setter of a built frame's field may be presented while the field holds nothing. -/
theorem allows_of_built (built : d.built = true) (unstored : use d ≠ .stored) : d.allows (set v) = true := by
  rw [R.allows_set, built, Bool.true_and, bne_iff_ne]
  exact unstored

/-- A refused setter is remembered as refused. -/
theorem use_after_refused (unstored : use d ≠ .stored) : use (d.after (set v) false) = .refused :=
  (R.use_refused d v).trans (FieldUse.refuse_of_ne_stored unstored)

/-- A run that begins with a refused setter of such a field goes on with the refusal on record. -/
theorem safeRun_refused (F : FieldCommands set get sh) (hv : 3 < v.toNat) (built : d.built = true)
    (unstored : use d ≠ .stored) (s : State) (is : List Instr) :
    safeRun d (set v :: is) s =
      safeRun (d.after (set v) false) is { s with resp := some (errorResponse .invalidField) } := by
  rw [safeRun_cons ((F.exec_set v s).trans (setField_of_lt hv sh s)), R.allows_of_built built unstored]
  rfl

/-- A refused setter may be repeated (60_exceptions.md R184). -/
theorem allows_after_refused (w : Word) (built : d.built = true) (unstored : use d ≠ .stored) :
    (d.after (set v) false).allows (set w) = true := by
  refine R.allows_of_built ((R.built_refused d v).trans built) ?_
  rw [R.use_after_refused unstored]
  decide

/-- `CALC_CSUM` does not make a frame with a refused setter fit to be sent. -/
theorem not_allows_getRaw_after_refused (ok : Bool) (unstored : use d ≠ .stored) :
    ((d.after (set v) false).after .calcCsum ok).allows .getRaw = false := by
  refine allows_getRaw_of_anyRefused (R.anyRefused _ ?_)
  rw [R.use_calcCsum, R.use_after_refused unstored]

/-- A legal value set in a built frame's field that holds nothing is then what the field holds. -/
theorem field_of_exec_set (F : FieldCommands set get sh) {w : Word} (hw : w.toNat ≤ 3) {s t : State}
    (tracks : d.tracks s.fr) (built : d.built = true) (unstored : use d ≠ .stored) (h : exec (set w) s = .next t) :
    (t.header.extractLsb' sh 2).setWidth 32 = w := by
  obtain ⟨-, -, -, field⟩ := F.parts_of_exec_set hw h
  rw [field, State.header, R.zero d s.fr tracks built unstored, BitVec.zero_or, setWidth_extractLsb'_of_le hw,
    BitVec.setWidth_eq]

end FieldRecord

/-- Only `INIT` and `SET_RAW` end the record of a failed `VERIFY` (assumption 9). -/
theorem failed_after {d : Duty} (failed : d.failed = true) {i : Instr} (hinit : i ≠ .init)
    (hraw : ∀ raw, i ≠ .setRaw raw) (ok : Bool) : (d.after i ok).failed = true := by
  cases i with
  | init => exact absurd rfl hinit
  | setRaw raw => exact absurd rfl (hraw raw)
  | setTo v | setFrom v | setType v => cases ok <;> exact failed
  | verify => exact (congrArg (· || !ok) failed).trans (Bool.true_or _)
  | _ => exact failed

/-- The commands that use the contents of a frame: the getters and `GET_RAW` (R213). -/
def usingCommands : List Instr := [.getTo, .getFrom, .getType, .getData, .getRaw]

/-- A frame that failed `VERIFY` is dropped: none of its contents may be used. -/
theorem not_allows_of_failed {d : Duty} (failed : d.failed = true) : ∀ j ∈ usingCommands, d.allows j = false := by
  simp [usingCommands, Duty.allows, Duty.trusted, failed]

/-- The block enforces none of this: it answers these commands with success on every frame. -/
theorem answer_ok_of_using (f : Word) : ∀ j ∈ usingCommands, (answer j f).ok = true := by
  simp [usingCommands, answer, successResponse]

/-- After a failed `VERIFY` and any commands but `INIT` and `SET_RAW`, a run that uses the frame is not safe. -/
theorem safeRun_of_failed {is : List Instr} (his : ∀ i ∈ is, i ≠ .init ∧ ∀ raw, i ≠ .setRaw raw) {j : Instr}
    (hj : j ∈ usingCommands) (later : List Instr) {d : Duty} (failed : d.failed = true) (s : State) :
    safeRun d (is ++ j :: later) s = false := by
  induction is generalizing d s with
  | nil => exact (safeRun_cons (exec_eq j s) d later).trans (by rw [not_allows_of_failed failed j hj, Bool.false_and])
  | cons i is ih =>
    obtain ⟨⟨hinit, hraw⟩, hrest⟩ := List.forall_mem_cons.1 his
    rw [List.cons_append, safeRun_cons (exec_eq i s), ih hrest (failed_after failed hinit hraw _), Bool.and_false]

/-- After any commands, the last command's answer on the frame they leave. -/
theorem execAll_append_answer (is : List Instr) (j : Instr) (s : State) :
    ∃ t f, execAll (is ++ [j]) s = .next t ∧ t.resp = some (answer j f) := by
  obtain ⟨t, h⟩ := execAll_next is s
  exact ⟨_, t.fr, (execAll_append h [j]).trans (execAll_cons (exec_eq j t) []), rfl⟩

/-- A getter on a newly loaded word is safe after `VERIFY` exactly when `VERIFY` passed. -/
theorem allows_getTo_of_verified (ok : Bool) : (Duty.afterReset.after .verify ok).allows .getTo = ok := by
  cases ok <;> rfl

end Sys2Proof.Safety

/-! The statements of 60_exceptions.md. -/

namespace Sys2Proof.Proofs

open Sys2Proof.Machine Sys2Proof.Safety

/-- Settles O60: the record holds a refused setter until it is repeated and a failed `VERIFY` until the frame is
replaced, and a new frame has neither. -/
theorem theHostsDutyAfterAnError : Obligations.TheHostsDutyAfterAnError := by
  refine ⟨fun set use field hset d s v w tracks built unstored hv hw => ?_,
    fun s bad is his j hj => ⟨fun d later => ?_, ?_⟩, fun d s raw => ⟨?_, ?_⟩⟩
  · obtain ⟨get, sh, F, R, hfield⟩ := fieldRecord_of_mem hset
    have refused := (F.exec_set v s).trans (setField_of_lt hv sh s)
    have repeated := (F.exec_set w _).trans (setField_of_le hw sh { s with resp := some (errorResponse .invalidField) })
    refine ⟨?_, ?_, _, _, refused, rfl, repeated, ?_⟩
    · rw [R.safeRun_refused F hv built unstored, safeRun_cons (exec_eq .calcCsum _), safeRun_cons (exec_eq .getRaw _),
        R.not_allows_getRaw_after_refused _ unstored, Bool.false_and, Bool.and_false]
    · rw [R.safeRun_refused F hv built unstored, safeRun_cons repeated, R.allows_after_refused w built unstored]
      rfl
    · exact (congrArg _ (hfield _)).trans (R.field_of_exec_set F hw tracks built unstored repeated)
  · have failed : (d.after .verify (answer .verify s.fr).ok).failed = true :=
      (congrArg (d.failed || !·) bad).trans (Bool.or_true _)
    rw [List.cons_append, safeRun_cons (exec_eq .verify s)]
    exact (congrArg _ (safeRun_of_failed his hj later failed _)).trans (Bool.and_false _)
  · obtain ⟨t, f, run, answered⟩ := execAll_append_answer (.verify :: is) j s
    exact ⟨t, _, run, answered, answer_ok_of_using f j hj⟩
  · rw [safeRun_cons (exec_init s), safeRun_cons (exec_eq .getTo _)]
    rfl
  · rw [safeRun_cons (exec_setRaw raw s), safeRun_cons (exec_eq .verify _), safeRun_cons (exec_eq .getTo _)]
    exact (Bool.and_true _).trans (allows_getTo_of_verified (wellFormed raw))

/-- Settles O17: the setters check the range before they write, and bit 0 of `err` is theirs alone. -/
theorem fieldSettersCheckTheRangeFirst : Obligations.FieldSettersCheckTheRangeFirst := by
  refine ⟨fun set hset v s => ?_, fun i s t r h answered bit => ?_⟩
  · obtain ⟨get, sh, F⟩ := fieldCommands_of_setter hset
    refine ⟨fun hv => (F.exec_set v s).trans (setField_of_lt hv sh s), fun hv => ?_⟩
    have run := (F.exec_set v s).trans (setField_of_le hv sh s)
    obtain ⟨-, data, checksum, -⟩ := F.parts_of_exec_set hv run
    exact ⟨_, run, rfl, data, checksum⟩
  · obtain ⟨range, -⟩ := errorBitsOfEveryResponse i s t r h answered
    exact range.1 bit

/-- Settles O40: every answer is listed, and each one listed for `VERIFY` or a setter has a frame or an operand that
gives it. -/
theorem possibleAnswersOfEachCommand : Obligations.PossibleAnswersOfEachCommand := by
  refine ⟨fun i s => ⟨_, _, exec_eq i s, rfl, answer_mem_possibleAnswers i s.fr⟩, fun a ha => ?_,
    fun set hset a ha s => ?_⟩
  · obtain ⟨f, hf⟩ := exists_verifyResponse a ha
    exact ⟨{ State.reset with fr := f }, _, _, exec_eq .verify _, rfl, hf⟩
  · have same : Claims.possibleAnswers (set 0#32) = [(true, 0x00#5), (false, 0x01#5)] ∧
        ∀ v, answer (set v) s.fr = setFieldAnswer v := by
      simp only [List.mem_cons, List.not_mem_nil, or_false] at hset
      obtain rfl | rfl | rfl := hset <;> exact ⟨rfl, fun _ => rfl⟩
    obtain ⟨listed, answered⟩ := same
    obtain ⟨v, hv⟩ := exists_setFieldAnswer a (listed ▸ ha)
    exact ⟨v, _, _, exec_eq (set v) s, congrArg some (answered v), hv⟩

/-- Settles O44: a failing command leaves the frame word, and no command looks at the response before it. -/
theorem failingCommandsChangeNothing : Obligations.FailingCommandsChangeNothing := by
  intro i s t r h answered failed
  obtain rfl := exec_eq_next_iff.1 h
  obtain rfl := Option.some.inj answered
  have unchanged : frAfter i s.fr = s.fr := frAfter_of_not_ok failed
  rw [unchanged]
  exact ⟨err_ne_zero_of_not_ok (legalResponse_answer i s.fr) failed, rfl,
    (noCommandReadsAnEarlierResponse s _).1⟩

/-- Settles O45: bits 2 and 3 of `err` say which checks of `VERIFY` failed, and no other command sets them. -/
theorem onlyVerifyReportsChecksumAndFramingErrors : Obligations.OnlyVerifyReportsChecksumAndFramingErrors := by
  refine ⟨fun s => ?_, fun i s t r hi h answered => ?_⟩
  · obtain ⟨-, -, mismatch, framing, -, -, both⟩ := errorBitsOfEveryResponse .verify s _ _ (exec_eq .verify s) rfl
    have legal := legalResponse_answer .verify s.fr
    have bit2 (sum : s.checksum ≠ csum s.header s.data) := mismatch.2 ⟨rfl, sum⟩
    have bit3 (marker : preOf s.header = false ∨ postOf s.header = false) := framing.2 ⟨rfl, by
      rwa [not_and_or, Bool.not_eq_true, Bool.not_eq_true]⟩
    refine ⟨_, exec_eq .verify s, fun sum => ⟨bit2 sum, not_ok_of_err_bit legal (bit2 sum)⟩, fun sum => ?_,
      fun marker => ⟨bit3 marker, not_ok_of_err_bit legal (bit3 marker)⟩, fun pre post => ?_,
      fun sum marker => (both 2 3 (by decide) (bit2 sum) (bit3 marker)).2⟩
    · exact Bool.eq_false_of_not_eq_true fun bit => (mismatch.1 bit).2 sum
    · exact Bool.eq_false_of_not_eq_true fun bit => (framing.1 bit).2 ⟨pre, post⟩
  · obtain ⟨-, -, mismatch, framing, -⟩ := errorBitsOfEveryResponse i s t r h answered
    exact ⟨Bool.eq_false_of_not_eq_true fun bit => hi (mismatch.1 bit).1,
      Bool.eq_false_of_not_eq_true fun bit => hi (framing.1 bit).1⟩

end Sys2Proof.Proofs

/-! SUPPORT. The parts of `FR` the host may rely on after a reset (70_reset_and_hazards.md R203): along any run they are
made from parts it could rely on before. -/

namespace Sys2Proof.Safety

open Sys2Proof.Machine

section

variable (k : Known)

@[simp] theorem header_mem_parts : .header ∈ k.parts ↔ k.header = true := by simp [Known.parts]
@[simp] theorem data_mem_parts : .data ∈ k.parts ↔ k.data = true := by simp [Known.parts]
@[simp] theorem checksum_mem_parts : .checksum ∈ k.parts ↔ k.checksum = true := by simp [Known.parts]

end

/-- A field setter makes no part known, and the header it writes is made from the header it reads (R208). -/
theorem kept_or_written_by_setter {k : Known} {p : Part} (hp : p ∈ k.parts) (v : Word) :
    p ∈ k.parts ∧ p ∉ (if fieldInRange v then [Part.header] else []) ∨
      p ∈ (if fieldInRange v then [Part.header] else []) ∧ ∀ q ∈ [Part.header], q ∈ k.parts := by
  by_cases hv : fieldInRange v = true
  · cases p with
    | header => exact .inr ⟨by simp [hv], List.forall_mem_singleton.2 hp⟩
    | data | checksum => exact .inl ⟨hp, by simp [hv]⟩
  · exact .inl ⟨hp, by simp [hv]⟩

/-- A part known after a command was known before and is kept, or is written from parts that were known. -/
theorem kept_or_written_of_known_after {k : Known} {i : Instr} {p : Part} (hp : p ∈ (k.after i).parts) :
    p ∈ k.parts ∧ p ∉ writes i ∨ p ∈ writes i ∧ ∀ q ∈ reads i, q ∈ k.parts := by
  cases i with
  | init | setRaw raw => exact .inr ⟨by cases p <;> simp [writes], List.forall_mem_nil _⟩
  | setTo v | setFrom v | setType v => exact kept_or_written_by_setter hp v
  | setData d =>
    cases p with
    | data => exact .inr ⟨List.mem_singleton.2 rfl, List.forall_mem_nil _⟩
    | header | checksum => exact .inl ⟨by simpa [Known.after] using hp, by simp [writes]⟩
  | calcCsum =>
    cases p with
    | checksum => exact .inr ⟨List.mem_singleton.2 rfl, by simpa [Known.after, reads] using hp⟩
    | header | data => exact .inl ⟨by simpa [Known.after] using hp, by simp [writes]⟩
  | _ => exact .inl ⟨hp, List.not_mem_nil⟩

/-- One command: from frame words that agree on the known parts it makes frame words that agree on the parts known
then. -/
theorem agreeOn_known_frAfter {k : Known} {f g : Word} (h : agreeOn k.parts f g) (i : Instr) :
    agreeOn (k.after i).parts (frAfter i f) (frAfter i g) := by
  intro p hp
  obtain ⟨known, unwritten⟩ | ⟨written, known⟩ := kept_or_written_of_known_after hp
  · rw [frAfter_unwritten unwritten, frAfter_unwritten unwritten, h p known]
  · exact agreeOn_frAfter (fun q hq => h q (known q hq)) p written

end Sys2Proof.Safety

/-! SUPPORT. What the host's record promises of the frame (70_reset_and_hazards.md R206 to R213), and that every command
keeps the promises. -/

namespace Sys2Proof.Safety

open Sys2Proof.Machine

section

variable (v f : Word) {sh : Nat}

/-- A field setter leaves the header bits outside its field, whether it succeeds or fails. -/
theorem getLsbD_headerOf_setFieldFr {k : Nat} (hk : k < sh ∨ sh + 2 ≤ k) :
    (headerOf (setFieldFr sh v f)).getLsbD k = (headerOf f).getLsbD k := by
  rw [headerOf_setFieldFr]
  split
  · exact getLsbD_or_fieldInsert _ v hk
  · rw [BitVec.or_zero]

/-- A field setter leaves the other two fields. -/
theorem field_headerOf_setFieldFr {a n : Nat} (ha : a + n ≤ sh ∨ sh + 2 ≤ a) :
    (headerOf (setFieldFr sh v f)).extractLsb' a n = (headerOf f).extractLsb' a n := by
  apply BitVec.eq_of_getLsbD_eq
  intro k hk
  rw [BitVec.getLsbD_extractLsb', BitVec.getLsbD_extractLsb', getLsbD_headerOf_setFieldFr v f (by omega)]

/-- A field setter leaves both markers (R208). -/
theorem framingOk_setFieldFr (above : 0 < sh) (below : sh + 2 < 8) : framingOk (setFieldFr sh v f) = framingOk f := by
  rw [framingOk, framingOk, preOf, preOf, postOf, postOf, getLsbD_headerOf_setFieldFr v f (.inr (by omega)),
    getLsbD_headerOf_setFieldFr v f (.inl above)]

end

/-- What the record remembers of each header field, with the bit where the field begins. -/
def fieldUses : List ((Duty → FieldUse) × Nat) := [(Duty.toUse, 5), (Duty.fromUse, 3), (Duty.typeUse, 1)]

/-- The promises of the record, those on the three fields as one. -/
theorem tracks_iff (d : Duty) (f : Word) :
    d.tracks f ↔ (d.built = true → framingOk f = true) ∧
      (∀ row ∈ fieldUses, d.built = true → row.1 d ≠ .stored → (headerOf f).extractLsb' row.2 2 = 0#2) ∧
      (d.sumFresh = true → sumOk f = true) ∧ (d.verified = true → wellFormed f = true) := by
  simp only [fieldUses, List.forall_mem_cons]
  constructor
  · rintro ⟨framed, toZero, fromZero, typeZero, fresh, verified⟩
    exact ⟨framed, ⟨toZero, fromZero, typeZero, List.forall_mem_nil _⟩, fresh, verified⟩
  · rintro ⟨framed, ⟨toZero, fromZero, typeZero, -⟩, fresh, verified⟩
    exact ⟨framed, toZero, fromZero, typeZero, fresh, verified⟩

/-- A record goes on tracking a frame whose header is kept, if it counts no stored field as unstored again and what it
says of the sum is right. -/
theorem tracks_of_same_header {d d' : Duty} {f g : Word} (h : d.tracks f) (header : headerOf g = headerOf f)
    (built : d'.built = d.built) (unstored : ∀ row ∈ fieldUses, row.1 d' ≠ .stored → row.1 d ≠ .stored)
    (fresh : d'.sumFresh = true → sumOk g = true) (verified : d'.verified = true → wellFormed g = true) :
    d'.tracks g := by
  obtain ⟨framed, zero, -, -⟩ := (tracks_iff d f).1 h
  rw [tracks_iff, framingOk, header, built]
  exact ⟨framed, fun row hrow hbuilt hrow' => zero row hrow hbuilt (unstored row hrow hrow'), fresh, verified⟩

/-- After a field setter a record tracks the frame if it makes the sum stale and counts the setter's field as stored. -/
theorem tracks_setFieldFr {d d' : Duty} {f : Word} (h : d.tracks f) {sh : Nat} (inside : 0 < sh ∧ sh + 2 < 8)
    (v : Word) (built : d'.built = d.built) (stale : d'.sumFresh = false ∧ d'.verified = false)
    (others : ∀ row ∈ fieldUses, row.1 d' ≠ .stored → row.1 d ≠ .stored ∧ (row.2 + 2 ≤ sh ∨ sh + 2 ≤ row.2)) :
    d'.tracks (setFieldFr sh v f) := by
  obtain ⟨framed, zero, -, -⟩ := (tracks_iff d f).1 h
  obtain ⟨unsummed, unverified⟩ := stale
  rw [tracks_iff, framingOk_setFieldFr v f inside.1 inside.2, built, unsummed, unverified]
  refine ⟨framed, fun row hrow hbuilt hrow' => ?_, nofun, nofun⟩
  obtain ⟨unstored, apart⟩ := others row hrow hrow'
  rw [field_headerOf_setFieldFr v f apart]
  exact zero row hrow hbuilt unstored

/-- A refused setter does not change whether a value is stored. -/
@[simp] theorem FieldUse.refuse_eq_stored_iff (u : FieldUse) : u.refuse = .stored ↔ u = .stored := by
  cases u <;> simp [FieldUse.refuse]

/-- One command: the record updated by the block's answer tracks the frame the command leaves. -/
theorem tracks_after {d : Duty} {f : Word} (h : d.tracks f) (i : Instr) :
    (d.after i (answer i f).ok).tracks (frAfter i f) := by
  cases i with
  | init =>
    rw [frAfter_init]
    exact ⟨fun _ => framingOk_fresh, fun _ _ => toCommands.fresh, fun _ _ => fromCommands.fresh,
      fun _ _ => typeCommands.fresh, nofun, nofun⟩
  | setTo v | setFrom v | setType v =>
    change (d.after _ (setFieldAnswer v).ok).tracks (setFieldFr _ v f)
    cases ok : (setFieldAnswer v).ok
    · rw [setFieldFr_of_not_ok ok]
      exact tracks_of_same_header h rfl rfl (by simp [fieldUses, Duty.after]) h.fresh h.verified
    · exact tracks_setFieldFr h (by decide) v rfl ⟨rfl, rfl⟩
        (by simp [fieldUses, Duty.after, Duty.stale, Config.toShift, Config.fromShift, Config.typeShift])
  | setData x =>
    exact tracks_of_same_header h (headerOf_frameWord ..) rfl (by simp [fieldUses, Duty.after, Duty.stale]) nofun nofun
  | calcCsum =>
    exact tracks_of_same_header h (headerOf_frameWord ..) rfl (by simp [fieldUses, Duty.after])
      (fun _ => sumOk_frAfter_calcCsum f) nofun
  | verify =>
    refine tracks_of_same_header h rfl rfl (by simp [fieldUses, Duty.after]) (fun fresh => ?_) id
    obtain fresh | passed := Bool.or_eq_true_iff.1 fresh
    · exact h.fresh fresh
    · exact (Bool.and_eq_true_iff.1 passed).2
  | setRaw raw => exact ⟨nofun, nofun, nofun, nofun, nofun, nofun⟩
  | _ => exact h

/-- The record after a first command and the rest. -/
theorem dutyAfter_cons {i : Instr} {s t : State} (h : exec i s = .next t) (d : Duty) (is : List Instr) :
    dutyAfter d (i :: is) s = dutyAfter (d.after i (answeredOk t)) is t := by
  rw [dutyAfter, h]

/-- The record tracks the frame along a run. -/
theorem tracks_dutyAfter {is : List Instr} {d : Duty} {s t : State} (tracks : d.tracks s.fr)
    (h : execAll is s = .next t) : (dutyAfter d is s).tracks t.fr := by
  induction is generalizing d s with
  | nil =>
    cases h
    exact tracks
  | cons i is ih =>
    rw [execAll_cons (exec_eq i s)] at h
    rw [dutyAfter_cons (exec_eq i s)]
    exact ih (tracks_after tracks i) h

end Sys2Proof.Safety

/-! SUPPORT. Runs that keep the host's duties (70_reset_and_hazards.md R206, R207, R209): what the record says of the
frame when a command that uses or changes it is allowed. -/

namespace Sys2Proof.Safety

open Sys2Proof.Machine

/-- A run is safe when its first part is and the rest is with the record that part leaves. -/
theorem safeRun_append {is : List Instr} {s t : State} (h : execAll is s = .next t) (d : Duty) (js : List Instr) :
    safeRun d (is ++ js) s = (safeRun d is s && safeRun (dutyAfter d is s) js t) := by
  induction is generalizing d s with
  | nil =>
    cases h
    exact (Bool.true_and _).symm
  | cons i is ih =>
    have hi := exec_eq i s
    rw [execAll_cons hi] at h
    rw [List.cons_append, safeRun_cons hi, safeRun_cons hi, dutyAfter_cons hi, ih h, Bool.and_assoc]

theorem trusted_iff (d : Duty) :
    d.trusted = true ↔ (d.built = true ∨ d.verified = true) ∧ d.failed = false := by simp [Duty.trusted]

theorem allows_getRaw_iff (d : Duty) :
    d.allows .getRaw = true ↔ d.trusted = true ∧ d.sumFresh = true ∧ d.anyRefused = false := by
  simp [Duty.allows, and_assoc]

/-- The getters are allowed on a trusted frame (R209). -/
theorem allows_getter (d : Duty) :
    ∀ i ∈ [Instr.getTo, Instr.getFrom, Instr.getType, Instr.getData], d.allows i = d.trusted := by
  simp [Duty.allows]

/-- A frame with a fresh checksum that was built or verified is well formed. -/
theorem wellFormed_of_tracks {d : Duty} {f : Word} (tracks : d.tracks f) (fresh : d.sumFresh = true)
    (source : d.built = true ∨ d.verified = true) : wellFormed f = true := by
  obtain built | verified := source
  · rw [wellFormed, tracks.framed built, tracks.fresh fresh]
    rfl
  · exact tracks.verified verified

/-- Sending such a frame after a run from reset sends a well-formed word. -/
theorem execAll_append_getRaw_wellFormed {is : List Instr} {s t : State} (h : execAll is s = .next t)
    (fresh : (dutyAfter Duty.afterReset is s).sumFresh = true)
    (source : (dutyAfter Duty.afterReset is s).built = true ∨ (dutyAfter Duty.afterReset is s).verified = true) :
    ∃ u r, execAll (is ++ [.getRaw]) s = .next u ∧ u.resp = some r ∧ r.ok = true ∧ wellFormed r.rdata = true := by
  have tracks := tracks_dutyAfter (Proofs.theHostsRecordHoldsAfterReset s.fr) h
  exact ⟨_, _, (execAll_append h [.getRaw]).trans (execAll_cons (exec_getRaw t) []), rfl, rfl,
    wellFormed_of_tracks tracks fresh source⟩

/-- Each setter and field belong to one header field, of which the record remembers something. -/
theorem fieldRecord_of_setter {set : Word → Instr} {field : Byte → BitVec 2}
    (h : (set, field) ∈ [(Instr.setTo, toOf), (Instr.setFrom, fromOf), (Instr.setType, typeOf)]) :
    ∃ use get sh, FieldCommands set get sh ∧ FieldRecord set use sh ∧ ∀ x, field x = x.extractLsb' sh 2 := by
  have row : ∃ use, (set, use, field) ∈ [(Instr.setTo, Duty.toUse, toOf), (Instr.setFrom, Duty.fromUse, fromOf),
      (Instr.setType, Duty.typeUse, typeOf)] := by simpa [exists_or] using h
  obtain ⟨use, hrow⟩ := row
  exact ⟨use, fieldRecord_of_mem hrow⟩

end Sys2Proof.Safety

/-! SUPPORT. The cycles that change `FR` (70_reset_and_hazards.md R200, R201). -/

namespace Sys2Proof.Machine

/-- A reset cycle runs the reset event and no command. -/
theorem step_of_reset {s : State} {c : PortCycle} {rest : List PortCycle} (h : s.inputs = c :: rest)
    (hrst : c.rst = true) : step s = .next (State.resetEvent { s with inputs := rest } (Config.frReset s.resets)) := by
  rw [step, nextEvent_of_inputs h, cycleEvent_reset c hrst, takeCycle_of_inputs h]

/-- A command that changes the frame word writes a part of it. -/
theorem writes_ne_nil_of_frAfter_ne {i : Instr} {f : Word} (changed : frAfter i f ≠ f) : writes i ≠ [] := by
  intro none
  exact changed (eq_of_agreeOn_all fun _ _ => frAfter_unwritten (by simp [none]) f)

end Sys2Proof.Machine

/-! SUPPORT. The commands between `INIT` and `CALC_CSUM`, in any order (70_reset_and_hazards.md R204): the header and
the data they leave, and the frame word that is then sent. -/

namespace Sys2Proof.Machine

/-- Where no command but `SET_DATA e` writes the data, and it does or `e` stood there before, the data is `e`. -/
theorem data_of_only_setData {is : List Instr} {s t : State} {e : Half} (h : execAll is s = .next t)
    (only : ∀ i ∈ is, .data ∈ writes i → i = .setData e) (there : .setData e ∈ is ∨ s.data = e) : t.data = e := by
  obtain ⟨earlier, i, later, before, split, hi, -, -, written⟩ | ⟨unwritten, kept⟩ := mostRecentWrite_execAll h .data
  · obtain rfl := only i (by simp [split]) hi
    exact ((and_dataMask_eq_iff ..).1 written).trans (dataOf_setWidth_shiftLeft e)
  · have set_absent : .setData e ∉ is := fun he => unwritten _ he (List.mem_singleton.2 rfl)
    exact ((and_dataMask_eq_iff ..).1 kept).trans (there.resolve_left set_absent)

theorem headerBitsAll_append (is js : List Instr) :
    headerBitsAll (is ++ js) = headerBitsAll is ||| headerBitsAll js := by
  induction is with
  | nil => exact BitVec.zero_or.symm
  | cons i is ih => exact (congrArg (headerBits i ||| ·) ih).trans (BitVec.or_assoc ..).symm

/-- A setter given at most once, in range: its operand, or 0 if it is left out, shifted to its field. -/
theorem headerBitsAll_optional {set : Word → Instr} {sh : Nat}
    (bits : ∀ v, headerBits (set v) = if fieldInRange v then fieldInsert v sh else 0#8) {a : Option Word}
    (ha : ∀ v ∈ a.toList, v.toNat ≤ 3) : headerBitsAll (a.toList.map set) = (a.getD 0#32).setWidth 8 <<< sh := by
  cases a with
  | none => exact (BitVec.zero_shiftLeft sh).symm
  | some v =>
    have inRange : v.toNat ≤ 3 := ha v (List.mem_singleton.2 rfl)
    have inserted : headerBits (set v) = v.setWidth 8 <<< sh := by
      rw [bits, if_pos ((fieldInRange_iff v).2 inRange), fieldInsert_of_le inRange]
    exact BitVec.or_zero.trans inserted

/-- `SET_DATA` sets no header bit. -/
theorem headerBitsAll_setData (d : Option Half) : headerBitsAll (d.toList.map .setData) = 0#8 := by
  cases d with
  | none => rfl
  | some x => exact BitVec.or_zero

/-- A header that was ORed into keeps the markers of a fresh one. -/
theorem framingOk_of_header_or {f : Word} {x : Byte} (h : headerOf f = 0x81#8 ||| x) : framingOk f = true := by
  simp [framingOk, preOf, postOf, h]

/-- `CALC_CSUM` and `GET_RAW` answer the header, the data and their checksum. -/
theorem execAll_calcCsum_getRaw (s : State) :
    execAll [.calcCsum, .getRaw] s = .next { s with
      fr := frAfter .calcCsum s.fr
      resp := some (successResponse (s.header ++ s.data ++ csum s.header s.data)) } :=
  (execAll_cons (exec_eq .calcCsum s) [.getRaw]).trans (execAll_cons (exec_getRaw _) [])

theorem dataOf_fresh : dataOf 0x81000000#32 = 0#16 := by decide

/-- The sender's commands replace no frame, and write only the one data word, if any. -/
theorem effect_of_sender_command {a b c : Option Word} {d : Option Half} {i : Instr}
    (hi : i ∈ a.toList.map .setTo ++ b.toList.map .setFrom ++ c.toList.map .setType ++ d.toList.map .setData) :
    (i ≠ .init ∧ ∀ r, i ≠ .setRaw r) ∧ (.data ∈ writes i → i = .setData (d.getD 0#16)) := by
  simp only [List.mem_append, List.mem_map, Option.mem_toList] at hi
  obtain ((⟨v, -, rfl⟩ | ⟨v, -, rfl⟩) | ⟨v, -, rfl⟩) | ⟨x, rfl, rfl⟩ := hi
  all_goals simp [writes]

end Sys2Proof.Machine

/-! The statements of 70_reset_and_hazards.md. -/

namespace Sys2Proof.Proofs

open Sys2Proof.Machine Sys2Proof.Safety

/-- Settles O53, by induction on the commands: each keeps the two frames in agreement on the parts known so far. -/
theorem theResetDrawDoesNotShowInKnownParts : Obligations.TheResetDrawDoesNotShowInKnownParts := by
  intro is
  induction is with
  | nil => exact fun k s s' agree => ⟨s, s', rfl, rfl, agree⟩
  | cons i is ih =>
    intro k s s' agree
    rw [execAll_cons (exec_eq i s), execAll_cons (exec_eq i s')]
    exact ih (k.after i) _ _ (agreeOn_known_frAfter agree i)

/-- Settles O54: the record tracks the frame along the whole run, which completes. -/
theorem theHostsRecordTracksTheFrame : Obligations.TheHostsRecordTracksTheFrame := by
  intro is d s tracks
  obtain ⟨t, h⟩ := execAll_next is s
  exact ⟨t, h, tracks_dutyAfter tracks h⟩

/-- Settles O9: an idle cycle holds `FR`, and so does a command that writes nothing. -/
theorem onlyResetOrAWritingCommandChangesTheFrame : Obligations.OnlyResetOrAWritingCommandChangesTheFrame := by
  intro s t h changed
  cases inputs : s.inputs with
  | nil =>
    cases (step_of_no_inputs inputs).symm.trans h
    exact absurd rfl changed
  | cons c rest =>
    refine ⟨c, rest, rfl, ?_⟩
    cases hrst : c.rst with
    | true => exact .inl rfl
    | false =>
      cases hvalid : c.cmdValid with
      | true =>
        obtain rfl := exec_eq_next_iff.1 ((step_of_command inputs hrst hvalid).symm.trans h)
        exact .inr ⟨rfl, writes_ne_nil_of_frAfter_ne changed⟩
      | false =>
        cases (step_of_idle inputs hrst hvalid).symm.trans h
        exact absurd rfl changed

/-- Settles O35: the header is the OR of what was set, in any order, the data is what was set, and `CALC_CSUM` adds
their checksum. -/
theorem senderCommandsInAnyOrderSendTheFrame : Obligations.SenderCommandsInAnyOrderSendTheFrame := by
  intro a b c d inRange p hp s
  simp only [List.forall_mem_append] at inRange
  obtain ⟨⟨ha, hb⟩, hc⟩ := inRange
  have sender (i) (hi : i ∈ p) := effect_of_sender_command (hp.mem_iff.1 hi)
  have bits : headerBitsAll p = (a.getD 0#32).setWidth 8 <<< 5 ||| (b.getD 0#32).setWidth 8 <<< 3 |||
      (c.getD 0#32).setWidth 8 <<< 1 := by
    rw [headerBitsAll_perm hp, headerBitsAll_append, headerBitsAll_append, headerBitsAll_append,
      headerBitsAll_optional (fun _ => rfl) ha, headerBitsAll_optional (fun _ => rfl) hb,
      headerBitsAll_optional (fun _ => rfl) hc, headerBitsAll_setData, BitVec.or_zero]
    rfl
  have there : .setData (d.getD 0#16) ∈ p ∨ dataOf 0x81000000#32 = d.getD 0#16 := by
    cases d with
    | none => exact .inr dataOf_fresh
    | some x => exact .inl (hp.mem_iff.2 (List.mem_append_right _ (List.mem_singleton.2 rfl)))
  obtain ⟨t, h⟩ := execAll_next p { s with fr := 0x81000000#32, resp := some (successResponse 0#32) }
  have header : t.header = 0x81#8 ||| headerBitsAll p :=
    (header_execAll h fun i hi => (sender i hi).1).trans (congrArg (· ||| headerBitsAll p) headerOf_fresh)
  have data : t.data = d.getD 0#16 := data_of_only_setData h (fun i hi => (sender i hi).2) there
  have run : execAll (.init :: p) s = .next t := (execAll_cons (exec_init s) p).trans h
  refine ⟨_, t.header, ?_, (execAll_append run _).trans (execAll_calcCsum_getRaw t), ?_, ?_⟩
  · rw [header, bits, BitVec.or_assoc, BitVec.or_assoc, BitVec.or_assoc]
  · rw [data]
    rfl
  · exact (wellFormed_frAfter_calcCsum t.fr).trans (framingOk_of_header_or header)

/-- Settles O36: `SET_RAW` loads the word, `VERIFY` leaves it, and each getter returns its field of it. -/
theorem receiverCommandsReturnTheReceivedFields : Obligations.ReceiverCommandsReturnTheReceivedFields := by
  intro w s
  have run : execAll [.setRaw w, .verify] s = .next { s with fr := w, resp := some (verifyResponse w) } :=
    (execAll_cons (exec_setRaw w s) [.verify]).trans (execAll_cons (exec_eq .verify _) [])
  obtain ⟨-, hto, hfrom, htype, -⟩ := fields_headerOf w
  rw [← hto, ← hfrom, ← htype]
  exact ⟨_, _, run, rfl, rfl, rfl, exec_eq .getTo _, exec_eq .getFrom _, exec_eq .getType _, exec_eq .getData _⟩

/-- Settles O56: the record tracks the frame from reset on, so what it allows is right of the frame. -/
theorem safeRunsSendWellFormedFrames : Obligations.SafeRunsSendWellFormedFrames := by
  refine ⟨fun is later s safe => ?_, fun is s d hd fresh source => ?_, fun set field hset d s v tracks allowed => ?_,
    fun d s i hi tracks allowed => ?_⟩
  · obtain ⟨t, h⟩ := execAll_next is s
    rw [safeRun_append h, safeRun_cons (exec_getRaw t), Bool.and_eq_true, Bool.and_eq_true] at safe
    obtain ⟨-, allowed, -⟩ := safe
    obtain ⟨trusted, fresh, -⟩ := (allows_getRaw_iff _).1 allowed
    exact execAll_append_getRaw_wellFormed h fresh ((trusted_iff _).1 trusted).1
  · obtain ⟨t, h⟩ := execAll_next is s
    subst hd
    exact execAll_append_getRaw_wellFormed h fresh source
  · obtain ⟨use, get, sh, F, R, hfield⟩ := fieldRecord_of_setter hset
    rw [R.allows_set, Bool.and_eq_true, bne_iff_ne] at allowed
    obtain ⟨built, unstored⟩ := allowed
    have run := exec_eq (set v) s
    refine ⟨_, run, fun hv => ?_, fun hv => ?_⟩
    · exact (congrArg _ (hfield _)).trans (R.field_of_exec_set F hv tracks built unstored run)
    · have refused := (F.exec_set v s).trans (setField_of_lt hv sh s)
      rw [Host.Outcome.next.inj (run.symm.trans refused)]
  · rw [allows_getter d i hi, trusted_iff] at allowed
    obtain ⟨source, unfailed⟩ := allowed
    exact ⟨unfailed, fun unbuilt => tracks.verified (source.resolve_left (by simp [unbuilt]))⟩

/-- Settles O8: the reset event takes the cycle and the draw, and nothing of the command ports. -/
theorem resetWinsOverACommand : Obligations.ResetWinsOverACommand :=
  fun _ _ _ => step_of_reset

end Sys2Proof.Proofs
